-- ==== Sys2Proof/Word.lean ====
section
/-! DEFINITION. The word types of the block and the names its fields range over. -/

namespace Sys2Proof

/-- A byte is 8 bits (R19). -/
abbrev Byte := BitVec 8

/-- Every register value is an unsigned 32-bit word unless a field width is given (R18). -/
abbrev Word := BitVec 32

/-- A 16-byte key, block or AES state. Byte 0 is the most significant byte, so that the block is the
128-bit big-endian integer of R147 and reads as the hexadecimal strings of the spec do. -/
abbrev Block := BitVec 128

/-- The three key slots (R8, R59). -/
inductive KeySlot where
  | nwkSKey   -- slot 0, NetworkSessionKey
  | appSKey   -- slot 1, AppSessionKey
  | appKey    -- slot 2, AppKey
  deriving DecidableEq, Repr

/-- What the 2-bit KSEL field says (R110, R112): a slot, or 3, which names no slot. -/
inductive KSel where
  | slot (k : KeySlot)
  | noSlot
  deriving DecidableEq, Repr

/-- The direction of a frame (R27). -/
inductive Dir where
  | uplink
  | downlink
  deriving DecidableEq, Repr

/-- The 3-bit message type of MHDR bits 7:5 (R28). -/
inductive MType where
  | joinRequest
  | joinAccept
  | unconfirmedDataUp
  | unconfirmedDataDown
  | confirmedDataUp
  | confirmedDataDown
  | rfu
  | proprietary
  deriving DecidableEq, Repr

end Sys2Proof
end

