-- ==== Sys2Proof/Syntax.lean ====
section
/-! DEFINITION. The commands of the block: one constructor for each row of spec/opcode_table.json. -/

namespace Sys2Proof

/-- A command with the fields its row of R118 reads. OFF and LEN are the 8-bit fields of R114 and R115. -/
inductive Instr where
  /-- MIC, OP 0x1 (R170). -/
  | mic (ksel : KSel) (dir : Dir) (off len : Byte)
  /-- VERIFY, OP 0x2 (R175). -/
  | verify (ksel : KSel) (dir : Dir) (off len : Byte)
  /-- CRYPT, OP 0x3 (R180). -/
  | crypt (ksel : KSel) (dir : Dir) (off len : Byte)
  /-- BUILD, OP 0x4 (R205). -/
  | build (off len : Byte) (mtype : MType)
  /-- VALIDATE, OP 0x5 (R215). -/
  | validate (len : Byte)
  /-- PARSE, OP 0x6 (R230). -/
  | parse (len : Byte)
  /-- ADMIT, OP 0x7 (R222). -/
  | admitFrame (len : Byte)
  deriving DecidableEq, Repr

end Sys2Proof
end

