-- ==== Sys2Proof/WellFormed.lean ====
section
/-! DEFINITION. When a command has field values its opcode allows (the "other constraint" column of R118). -/

namespace Sys2Proof

/-- KSEL = 3 names no slot (R112). -/
def KSel.namesSlot : KSel → Bool
  | .slot _ => true
  | .noSlot => false

/-- The two message types BUILD accepts (R116). -/
def MType.buildable : MType → Bool
  | .unconfirmedDataUp => true
  | .confirmedDataUp => true
  | .joinRequest => false
  | .joinAccept => false
  | .unconfirmedDataDown => false
  | .confirmedDataDown => false
  | .rfu => false
  | .proprietary => false

/-- A command is well formed when its KSEL names a slot and its MTYPE is one BUILD accepts (R118).
A command that is not is still executed: it ends with error OPCODE (R254). -/
def Instr.wellFormed : Instr → Bool
  | .mic ksel _ _ _ => ksel.namesSlot
  | .verify ksel _ _ _ => ksel.namesSlot
  | .crypt ksel _ _ _ => ksel.namesSlot
  | .build _ _ mtype => mtype.buildable
  | .validate _ => true
  | .parse _ => true
  | .admitFrame _ => true

end Sys2Proof
end

