-- ==== Sys2Proof/Decode.lean ====
section
/-! DEFINITION. The command word (R110 to R121): its fields, the decoder, then the encoder. -/

namespace Sys2Proof

/-- The `w`-bit value that has the field `x` with its bit 0 at bit `k`, and 0 elsewhere (R18, R21). -/
def place (w : Nat) {n : Nat} (x : BitVec n) (k : Nat) : BitVec w := x.setWidth w <<< k

/-! ### The numbers of the names -/

/-- The slot number of R8, which is the KSEL value that selects it (R112). -/
def KeySlot.num : KeySlot → BitVec 2
  | .nwkSKey => 0
  | .appSKey => 1
  | .appKey => 2

/-- The 2-bit KSEL field (R112). -/
def KSel.num : KSel → BitVec 2
  | .slot k => k.num
  | .noSlot => 3

/-- What a KSEL field says (R112). -/
def KSel.ofBits (b : BitVec 2) : KSel :=
  match b.toNat with
  | 0 => .slot .nwkSKey
  | 1 => .slot .appSKey
  | 2 => .slot .appKey
  | _ => .noSlot

/-- The 1-bit DIR field (R113): 0 uplink, 1 downlink (R27). -/
def Dir.num : Dir → BitVec 1
  | .uplink => 0
  | .downlink => 1

/-- What a DIR field says (R113). -/
def Dir.ofBits (b : BitVec 1) : Dir :=
  match b.toNat with
  | 0 => .uplink
  | _ => .downlink

/-- The 3-bit message type numbers of R28. -/
def MType.num : MType → BitVec 3
  | .joinRequest => 0
  | .joinAccept => 1
  | .unconfirmedDataUp => 2
  | .unconfirmedDataDown => 3
  | .confirmedDataUp => 4
  | .confirmedDataDown => 5
  | .rfu => 6
  | .proprietary => 7

/-- The message type a 3-bit field names (R28). -/
def MType.ofBits (b : BitVec 3) : MType :=
  match b.toNat with
  | 0 => .joinRequest
  | 1 => .joinAccept
  | 2 => .unconfirmedDataUp
  | 3 => .unconfirmedDataDown
  | 4 => .confirmedDataUp
  | 5 => .confirmedDataDown
  | 6 => .rfu
  | _ => .proprietary

/-! ### The fields of a command word (R110) -/

def opField (w : Word) : BitVec 4 := w.extractLsb' 0 4
def kselField (w : Word) : BitVec 2 := w.extractLsb' 4 2
def dirField (w : Word) : BitVec 1 := w.extractLsb' 6 1
def offField (w : Word) : Byte := w.extractLsb' 8 8
def lenField (w : Word) : Byte := w.extractLsb' 16 8
def mtypeField (w : Word) : BitVec 3 := w.extractLsb' 24 3

/-- Bit 7 and bits 31:27 are reserved and must be 0 (R117). -/
def reservedClear (w : Word) : Bool := w.extractLsb' 7 1 == 0 && w.extractLsb' 27 5 == 0

/-! ### The decoder -/

/-- Why a word is no command. The engine ends every one of them with error OPCODE (R254). -/
inductive DecodeError where
  /-- OP = 0x0 or 0x8..0xF (R120). -/
  | reservedOpcode
  /-- w[7] or w[31:27] is not 0 (R117). -/
  | reservedBits
  /-- A field the opcode does not read is not 0 (R118). -/
  | mustBeZero
  deriving DecidableEq, Repr

/-- The must-be-0 fields of MIC, VERIFY and CRYPT (R118): MTYPE. -/
def primitiveFieldsClear (w : Word) : Bool := mtypeField w == 0

/-- The must-be-0 fields of BUILD (R118): KSEL and DIR. -/
def buildFieldsClear (w : Word) : Bool := kselField w == 0 && dirField w == 0

/-- The must-be-0 fields of VALIDATE, PARSE and ADMIT (R118): KSEL, DIR, OFF and MTYPE. -/
def frameFieldsClear (w : Word) : Bool :=
  kselField w == 0 && dirField w == 0 && offField w == 0 && mtypeField w == 0

/-- Give `i` where the must-be-0 fields are 0, else reject by name. -/
def accept (clear : Bool) (i : Instr) : Except DecodeError Instr :=
  if clear then .ok i else .error .mustBeZero

/-- The operands MIC, VERIFY and CRYPT read (R118). -/
def primitiveOf (mk : KSel → Dir → Byte → Byte → Instr) (w : Word) : Instr :=
  mk (.ofBits (kselField w)) (.ofBits (dirField w)) (offField w) (lenField w)

/-- The decoder: total on 32-bit words. It selects the row of R118 by OP and applies the row's strict mask (R119).
The value constraints KSEL ≠ 3 and MTYPE ∈ {2, 4} are `Instr.wellFormed`, which the meanings check (log 12). -/
def decode (w : Word) : Except DecodeError Instr :=
  if !reservedClear w then .error .reservedBits
  else
    match (opField w).toNat with
    | 1 => accept (primitiveFieldsClear w) (primitiveOf .mic w)
    | 2 => accept (primitiveFieldsClear w) (primitiveOf .verify w)
    | 3 => accept (primitiveFieldsClear w) (primitiveOf .crypt w)
    | 4 => accept (buildFieldsClear w) (.build (offField w) (lenField w) (.ofBits (mtypeField w)))
    | 5 => accept (frameFieldsClear w) (.validate (lenField w))
    | 6 => accept (frameFieldsClear w) (.parse (lenField w))
    | 7 => accept (frameFieldsClear w) (.admitFrame (lenField w))
    | _ => .error .reservedOpcode

/-- A table word as the 32-bit command word: bit 0 is the least significant, bits from `nbits` up are 0 (log 18). -/
def tableWord (nbits w : Nat) : Word := BitVec.ofNat 32 (w % 2 ^ nbits)

/-- What the decoder reads from a word numbered as spec/opcode_table.json numbers it. -/
def decodeTableWord (nbits w : Nat) : Option Instr :=
  match decode (tableWord nbits w) with
  | .ok i => some i
  | .error _ => none

/-! ### The encoder -/

/-- The opcode of each command (R118). -/
def Instr.op : Instr → BitVec 4
  | .mic .. => 1
  | .verify .. => 2
  | .crypt .. => 3
  | .build .. => 4
  | .validate _ => 5
  | .parse _ => 6
  | .admitFrame _ => 7

/-- Lay the fields out as R110 does. -/
def pack (mtype : BitVec 3) (len off : Byte) (dir : BitVec 1) (ksel : BitVec 2) (op : BitVec 4) : Word :=
  place 32 mtype 24 ||| place 32 len 16 ||| place 32 off 8 ||| place 32 dir 6 ||| place 32 ksel 4 ||| place 32 op 0

/-- The command word of a command (R110, R123): a field the opcode does not read is 0. -/
def encode (i : Instr) : Word :=
  match i with
  | .mic ksel dir off len => pack 0 len off dir.num ksel.num i.op
  | .verify ksel dir off len => pack 0 len off dir.num ksel.num i.op
  | .crypt ksel dir off len => pack 0 len off dir.num ksel.num i.op
  | .build off len mtype => pack mtype.num len off 0 0 i.op
  | .validate len => pack 0 len 0 0 0 i.op
  | .parse len => pack 0 len 0 0 0 i.op
  | .admitFrame len => pack 0 len 0 0 0 i.op

/-! ### The opcode table's match and mask columns (R119) -/

/-- The strict mask of each row. -/
def Instr.rowMask : Instr → Word
  | .mic .. => 0xFF00008F
  | .verify .. => 0xFF00008F
  | .crypt .. => 0xFF00008F
  | .build .. => 0xF80000FF
  | .validate _ => 0xFF00FFFF
  | .parse _ => 0xFF00FFFF
  | .admitFrame _ => 0xFF00FFFF

/-- The match value of each row. -/
def Instr.rowMatch : Instr → Word
  | .mic .. => 0x00000001
  | .verify .. => 0x00000002
  | .crypt .. => 0x00000003
  | .build .. => 0x00000004
  | .validate _ => 0x00000005
  | .parse _ => 0x00000006
  | .admitFrame _ => 0x00000007

end Sys2Proof
end

