-- ==== Sys2Proof/Config.lean ====
section
/-! DEFINITION. The parameters of R8 to R16, what the platform fixes, and the free values. -/

namespace Sys2Proof

/-- The read-only identity "LRWC" (R2, R33). -/
def Config.idValue : Word := 0x4C525743

/-- BUF_SIZE, the bytes of the frame buffer (R13). -/
abbrev Config.bufSize : Nat := 256

/-- MAX_PAYLOAD, the longest payload BUILD accepts (R12). -/
abbrev Config.maxPayload : Nat := 20

/-- MIN_VALID_LEN, the shortest frame VALIDATE looks at (R16). -/
abbrev Config.minValidLen : Nat := 12

/-- MIC_BYTES, the bytes of a MIC (R11). -/
abbrev Config.micBytes : Nat := 4

/-- The fixed header MHDR, DevAddr, FCtrl, FCnt: the shortest frame PARSE and ADMIT read (R125, R258). -/
abbrev Config.fixedHeaderLen : Nat := 8

/-- CTR_BASE, the counter byte of the first keystream block; 0 for this hardware (R15). -/
abbrev Config.ctrBase : Nat := 0

/-- The bytes of the register window (R32, R80). -/
abbrev Config.windowSize : Nat := 0x200

/-- The offset of BUF[0] in the window (R64). -/
abbrev Config.bufOffset : Nat := 0x100

/-- Which 0x200-byte frame of the physical address space the window lies in: an OPEN parameter of the
platform (R14), so it has no body and no proof knows it. Log 5. -/
opaque Config.blockIndex : Nat

/-- BLOCK_BASE, a multiple of 0x200 (R14). -/
def Config.blockBase : Nat := Config.windowSize * Config.blockIndex

/-- IRQ_LINE, the line of the host's interrupt controller that IRQ reaches: an OPEN parameter of the platform
(R260), so it has no body. Log 13. -/
opaque Config.irqLine : Nat

/-- The free value a host read draws while BUSY = 1 (R95), one for each value of the draw counter.
It has no body: whatever is proved holds for every draw. Log 4. -/
opaque Config.busyDraw : Nat → Word

end Sys2Proof
end

