-- ==== Sys2Proof/Machine/State.lean ====
section
/-! DEFINITION. The state of the block as plain data, the reasons a step can stop, and the state after reset. -/

namespace Sys2Proof.Machine

/-- The frame buffer as the list of its written bytes (R64, R72): offset and byte, offsets strictly rising.
A byte that is not listed has its WRITTEN mark clear and holds no value (log 8). -/
abbrev Buf := List Host.Cell

/-- One key word register with its hidden WRITTEN bit (R59, R60). -/
structure KeyWord where
  value : Word
  written : Bool
  deriving DecidableEq, Repr

/-- The four key words of one slot (R59). -/
structure KeyRegs where
  w0 : KeyWord
  w1 : KeyWord
  w2 : KeyWord
  w3 : KeyWord
  deriving DecidableEq, Repr

/-- The outcome codes of a command (R250). -/
inductive CmdCode where
  | ok
  | state
  | opcode
  | key
  | range
  | length
  | size
  | abort
  deriving DecidableEq, Repr

/-- One move of one of the agents (R30, R269, R290). A bus access names its physical address and its width in bytes. -/
inductive Move where
  /-- The engine takes its step (R251). -/
  | engine
  /-- The host issues BusRead(addr, size) (R22). -/
  | read (addr size : Nat)
  /-- The host issues BusWrite(addr, size, value) (R22): a `size`-byte write carries the low `size` bytes of `value`. -/
  | write (addr size : Nat) (value : Word)
  /-- The platform asserts RESET_IN (R290). -/
  | reset
  deriving DecidableEq, Repr

/-- What the last bus access got back (log 14). -/
inductive Reply where
  /-- No access has been made since reset. -/
  | none
  /-- A write was taken: it took effect, was ignored, or was dropped. -/
  | written
  /-- A read returned this value. -/
  | data (v : Word)
  /-- The address is not the block's, which did not answer (R80, log 6). -/
  | noAnswer
  deriving DecidableEq, Repr

/-- The state. The rules of 10_state.md name every field but the last three, which are the model's own. -/
structure State where
  /-- CTRL.EN (R34, R35) -/
  en : Bool
  /-- CTRL.IE (R34) -/
  ie : Bool
  /-- STATUS.DONE (R39) -/
  done : Bool
  /-- STATUS.CFGERR (R41) -/
  cfgerr : Bool
  /-- STATUS.WERR (R42) -/
  werr : Bool
  /-- STATUS.ERRCODE (R40) -/
  errcode : BitVec 4
  /-- CMD (R44) -/
  cmd : Word
  /-- PENDING (R65); STATUS.BUSY says whether it is present (R38) -/
  pending : Option Word
  /-- SESS.AWAIT_ACK (R45) -/
  awaitAck : Bool
  /-- SESS.ACK_PENDING (R45) -/
  ackPending : Bool
  /-- DEVADDR (R46) -/
  devaddr : Word
  /-- FCNT_UP (R47) -/
  fcntUp : Word
  /-- FCNT_DOWN (R48) -/
  fcntDown : Word
  /-- FPORT bits 7:0 (R49) -/
  fport : Byte
  /-- OP_DEVADDR (R50) -/
  opDevaddr : Word
  /-- OP_FCNT (R51) -/
  opFcnt : Word
  /-- MIC (R52) -/
  mic : Word
  /-- MIC_IN (R53) -/
  micIn : Word
  /-- RESULT.OK (R54) -/
  resultOk : Bool
  /-- RESULT.REASON (R54) -/
  resultReason : BitVec 3
  /-- FLEN bits 7:0 (R55) -/
  flen : Byte
  /-- RX_HDR (R56) -/
  rxHdr : Word
  /-- RX_DEVADDR (R57) -/
  rxDevaddr : Word
  /-- RX_LAYOUT (R58) -/
  rxLayout : Word
  /-- KEY0_0..KEY0_3 (R59) -/
  nwkSKey : KeyRegs
  /-- KEY1_0..KEY1_3 (R59) -/
  appSKey : KeyRegs
  /-- KEY2_0..KEY2_3 (R59) -/
  appKey : KeyRegs
  /-- BUF with its WRITTEN marks (R64, R72) -/
  buf : Buf
  /-- The moves still to come, next first (log 1). -/
  moves : List Move
  /-- How many free values busy reads have drawn (R95, log 4). -/
  draws : Nat
  /-- What the last bus access got back (log 14). -/
  reply : Reply
  deriving DecidableEq, Repr

/-- Why a run stops with a fault: the two model faults of R262. Both are safe: no claim about a later state follows. -/
inductive Fault where
  /-- BUSERR (R83): a bus access of a wrong width, misaligned or crossing the window's end. Raised by a bus access; safe. -/
  | busError (addr : Nat)
  /-- UNINIT (R72): a host read, while BUSY = 0, that covers a BUF byte nothing has written. Raised by a bus read; safe. -/
  | uninitRead (addr : Nat)
  /-- UNINIT (R72): a command's MemRead(off, n) that covers a BUF byte nothing has written. Raised by the engine's step
  of any command; safe. -/
  | uninitCommand (off n : Nat)
  deriving DecidableEq, Repr

/-- Why a step gives an instruction no meaning. -/
inductive Refusal where
  /-- Raised only by an arm of `exec` for an instruction that has no meaning yet; safe. No arm raises it now. -/
  | notModelled (mnemonic : String)
  deriving DecidableEq, Repr

/-- A key word after reset: its WRITTEN bit is clear (R71); its contents are unspecified and never usable, and
the model holds 0. DESIGN CHOICE, log 7. -/
def KeyWord.reset : KeyWord := ⟨0, false⟩

/-- A key slot after reset (R71). -/
def KeyRegs.reset : KeyRegs := ⟨KeyWord.reset, KeyWord.reset, KeyWord.reset, KeyWord.reset⟩

/-- The state after reset (R70 to R73): every register 0, no key loaded, no BUF byte written, nothing PENDING;
and nothing scheduled, drawn or answered (logs 1, 4, 14). -/
def State.reset : State where
  en := false
  ie := false
  done := false
  cfgerr := false
  werr := false
  errcode := 0
  cmd := 0
  pending := none
  awaitAck := false
  ackPending := false
  devaddr := 0
  fcntUp := 0
  fcntDown := 0
  fport := 0
  opDevaddr := 0
  opFcnt := 0
  mic := 0
  micIn := 0
  resultOk := false
  resultReason := 0
  flen := 0
  rxHdr := 0
  rxDevaddr := 0
  rxLayout := 0
  nwkSKey := KeyRegs.reset
  appSKey := KeyRegs.reset
  appKey := KeyRegs.reset
  buf := []
  moves := []
  draws := 0
  reply := .none

end Sys2Proof.Machine
end

