-- ==== Sys2Proof/Machine/Ops.lean ====
section
/-! DEFINITION. Named operations over byte sequences, the frame buffer and the state; and how a command ends,
which is the block's whole exception mechanism (R250, R251, R263, R264). -/

namespace Sys2Proof.Machine

/-! ### Byte sequences (R19, R20) -/

/-- LE32(v) (R20). -/
def le32 (v : Word) : List Byte :=
  [v.extractLsb' 0 8, v.extractLsb' 8 8, v.extractLsb' 16 8, v.extractLsb' 24 8]

/-- LE16(v) (R20). -/
def le16 (v : BitVec 16) : List Byte := [v.extractLsb' 0 8, v.extractLsb' 8 8]

/-- fromLE(b), the sum of b[i]·256^i (R20). -/
def fromLE : List Byte → Nat
  | [] => 0
  | b :: bs => b.toNat + 256 * fromLE bs

/-- fromLE(b) as a register value. -/
def wordOfLE (b : List Byte) : Word := BitVec.ofNat 32 (fromLE b)

/-- xor(a, b), bytewise (R19). -/
def xorBytes (a b : List Byte) : List Byte := List.zipWith (· ^^^ ·) a b

/-! ### The frame buffer (R22, R64, R72) -/

/-- BUF[k], where its WRITTEN mark is set. -/
def readByte : Buf → Nat → Option Byte
  | [], _ => none
  | (a, b) :: rest, k => if a = k then some b else readByte rest k

/-- BUF[k] <- v, which sets the byte's WRITTEN mark (R72). -/
def writeByte : Buf → Nat → Byte → Buf
  | [], k, v => [(k, v)]
  | (a, b) :: rest, k, v =>
    if k < a then (k, v) :: (a, b) :: rest
    else if k = a then (k, v) :: rest
    else (a, b) :: writeByte rest k v

/-- BUF[k..k+n), where all of its bytes are written (MemRead of R22). -/
def readBytes (m : Buf) (k : Nat) : Nat → Option (List Byte)
  | 0 => some []
  | n + 1 =>
    match readByte m k, readBytes m (k + 1) n with
    | some b, some bs => some (b :: bs)
    | _, _ => none

/-- BUF[k+j] <- v[j] for every j (MemWrite of R22). -/
def writeBytes (m : Buf) (k : Nat) : List Byte → Buf
  | [] => m
  | v :: vs => writeBytes (writeByte m k v) (k + 1) vs

/-- The offsets of `m` rise strictly and none is below `lo`. -/
def risingFrom (lo : Nat) : Buf → Bool
  | [] => true
  | (a, _) :: rest => decide (lo ≤ a) && risingFrom (a + 1) rest

/-- The canonical form of the buffer (log 8): offsets strictly rising, all of them below BUF_SIZE. -/
def Memory.wf (m : Buf) : Bool := risingFrom 0 m && m.all fun c => decide (c.1 < Config.bufSize)

/-! ### How a command starts and ends -/

/-- The numbers of the outcome codes (R250). -/
def CmdCode.num : CmdCode → BitVec 4
  | .ok => 0
  | .state => 1
  | .opcode => 2
  | .key => 3
  | .range => 4
  | .length => 5
  | .size => 6
  | .abort => 7

/-- STATUS.BUSY (R38). -/
def State.busy (s : State) : Bool := s.pending.isSome

/-- A launching write of `w` to CMD (R44). -/
def State.launch (s : State) (w : Word) : State :=
  { s with cmd := w, pending := some w, done := false, errcode := 0 }

/-- The end of a command, executed or aborted, with its outcome code (R251, R257): ERRCODE, BUSY <- 0, DONE <- 1,
PENDING empty. -/
def State.finish (s : State) (c : CmdCode) : State :=
  { s with errcode := c.num, pending := none, done := true }

/-- What a command's rule answers. -/
abbrev Result := Host.Outcome State Fault Refusal

/-- TAKING AN EXCEPTION and ending normally are one operation: the command ends with the code, keeping the effects
`s` already shows (R250, R251). Nothing else is saved (R263) and there is no return (R264). -/
def endCommand (c : CmdCode) (s : State) : Result := .next (s.finish c)

/-- The first check that fails, in order (R259). -/
def firstError : List (Bool × CmdCode) → Option CmdCode
  | [] => none
  | (failed, c) :: rest => if failed then some c else firstError rest

/-- Run `body` where no check fails, else end with the first failing check's code and no other effect (R250, R259). -/
def runChecked (checks : List (Bool × CmdCode)) (s : State) (body : Result) : Result :=
  match firstError checks with
  | some c => endCommand c s
  | none => body

/-- MemRead(off, n) by a command: UNINIT where a byte of it is unwritten (R72, R262). -/
def withBytes (s : State) (off n : Nat) (body : List Byte → Result) : Result :=
  match readBytes s.buf off n with
  | some data => body data
  | none => .fault (.uninitCommand off n)

/-- BUF[off] read by a command: UNINIT where it is unwritten (R72, R262). -/
def withByte (s : State) (off : Nat) (body : Byte → Result) : Result :=
  match readByte s.buf off with
  | some b => body b
  | none => .fault (.uninitCommand off 1)

/-- MemWrite(off, len(v), v) (R22). -/
def State.memWrite (s : State) (off : Nat) (v : List Byte) : State :=
  { s with buf := writeBytes s.buf off v }

/-- What a launched word that is no command ends in (R252, R254): STATE while stopped, else OPCODE, and no other effect. -/
def rejectWord (s : State) : Result :=
  runChecked [(!s.en, .state)] s (endCommand .opcode s)

/-- RESET_IN asserted (R291): the block is as after reset. The moves still to come and the draw counter are not
the block's, and stay (log 17). -/
def State.assertReset (s : State) : State :=
  { State.reset with moves := s.moves, draws := s.draws }

end Sys2Proof.Machine
end

