-- ==== Sys2Proof/Machine/Operands.lean ====
section
/-! DEFINITION. Operand forms: the key slots, the buffer region of a command, and the fields of a frame. -/

namespace Sys2Proof.Machine

/-! ### Key slots (R59, R60, R43) -/

/-- Word `w` of a slot (R59). -/
def KeyRegs.word (r : KeyRegs) (w : Fin 4) : KeyWord :=
  match w with
  | 0 => r.w0
  | 1 => r.w1
  | 2 => r.w2
  | 3 => r.w3

/-- An accepted write of word `w` of a slot, which sets its WRITTEN bit (R60). -/
def KeyRegs.writeWord (r : KeyRegs) (w : Fin 4) (v : Word) : KeyRegs :=
  match w with
  | 0 => { r with w0 := ⟨v, true⟩ }
  | 1 => { r with w1 := ⟨v, true⟩ }
  | 2 => { r with w2 := ⟨v, true⟩ }
  | 3 => { r with w3 := ⟨v, true⟩ }

/-- All four words have been written since reset (R43, R60). -/
def KeyRegs.loaded (r : KeyRegs) : Bool :=
  r.w0.written && r.w1.written && r.w2.written && r.w3.written

/-- The 16 bytes of a slot: KEY[4w + j] is byte j of word w (R59). -/
def KeyRegs.bytes (r : KeyRegs) : List Byte :=
  le32 r.w0.value ++ le32 r.w1.value ++ le32 r.w2.value ++ le32 r.w3.value

/-- The registers of a slot. -/
def State.keyRegs (s : State) (k : KeySlot) : KeyRegs :=
  match k with
  | .nwkSKey => s.nwkSKey
  | .appSKey => s.appSKey
  | .appKey => s.appKey

/-- An accepted write of a key word (R60). -/
def State.writeKey (s : State) (k : KeySlot) (w : Fin 4) (v : Word) : State :=
  match k with
  | .nwkSKey => { s with nwkSKey := s.nwkSKey.writeWord w v }
  | .appSKey => { s with appSKey := s.appSKey.writeWord w v }
  | .appKey => { s with appKey := s.appKey.writeWord w v }

/-- STATUS.KEYV[k] (R43). -/
def State.keyLoaded (s : State) (k : KeySlot) : Bool := (s.keyRegs k).loaded

/-- Sixteen bytes as a block, byte 0 first (R140). -/
def blockOfBytes (b : List Byte) : Block := b.foldl (fun x c => x <<< 8 ||| c.setWidth 128) 0

/-- Byte `i` of a block (R19, R140). -/
def blockByte (x : Block) (i : Nat) : Byte := x.extractLsb' (8 * (15 - i)) 8

/-- A block as its 16 bytes, byte 0 first (R140). -/
def blockBytes (x : Block) : List Byte := (List.range 16).map (blockByte x)

/-- KEY_k as the AES key (R59). -/
def State.key (s : State) (k : KeySlot) : Block := blockOfBytes (s.keyRegs k).bytes

/-! ### The region of a command (R114, R115, R130) -/

/-- OFF + LEN > BUF_SIZE, computed without wrap (R253). -/
def outOfRange (off len : Byte) : Bool := decide (Config.bufSize < off.toNat + len.toNat)

/-! ### Directions and message types -/

/-- The direction byte of B0 and A_i, zext_8(DIR) (R27, R113). -/
def dirByte (d : Dir) : Byte := d.num.setWidth 8

/-- MTYPE ∈ {2, 4}, the types BUILD accepts (R116). -/
def buildAccepts (mt : MType) : Bool := mt.num == 2 || mt.num == 4

/-- confirmed(mt): mt ∈ {4, 5} (R202). -/
def confirmed (mt : MType) : Bool := mt.num == 4 || mt.num == 5

/-- mt ∈ {3, 5}, the downlink data types VALIDATE accepts (R215). -/
def downlinkData (mt : MType) : Bool := mt.num == 3 || mt.num == 5

/-! ### The fields of a frame (R125 to R127) -/

/-- MHDR with message type `mt` and bits 4:0 = 0 (R126). -/
def mhdrOf (mt : MType) : Byte := mt.num.setWidth 8 <<< 5

/-- The message type of an MHDR byte, its bits 7:5 (R126). -/
def mhdrType (mhdr : Byte) : MType := .ofBits (mhdr.extractLsb' 5 3)

/-- The FCtrl byte BUILD writes: 0x20 or 0x00 (R127, R205). -/
def fctrlOf (ack : Bool) : Byte := if ack then 0x20 else 0x00

/-- The ACK bit of FCtrl, bit 5 (R127). -/
def fctrlAck (fctrl : Byte) : Bool := fctrl.getLsbD 5

/-- FOptsLen, FCtrl bits 3:0 (R127). -/
def foptsLen (fctrl : Byte) : Nat := (fctrl.extractLsb' 0 4).toNat

/-- A 16-bit FCnt field from its two bytes (R84). -/
def fcntOf (b : List Byte) : BitVec 16 := BitVec.ofNat 16 (fromLE b)

end Sys2Proof.Machine
end

