-- ==== Sys2Proof/Machine/Flags.lean ====
section
/-! DEFINITION. The flag words: CTRL, STATUS, SESS and RESULT as software reads them, the interrupt output,
and the flag updates of the commands (R34, R37, R45, R54, R56, R58, R74). -/

namespace Sys2Proof.Machine

/-- A flag as a 1-bit field. -/
def flag (b : Bool) : BitVec 1 := BitVec.ofBool b

/-- STATUS.ERR: ERRCODE ≠ 0 (R40). -/
def State.err (s : State) : Bool := s.errcode != 0

/-- STATUS.KEYV, bit k for slot k (R43). -/
def State.keyv (s : State) : BitVec 3 :=
  place 3 (flag (s.keyLoaded .appKey)) 2 ||| place 3 (flag (s.keyLoaded .appSKey)) 1 |||
    place 3 (flag (s.keyLoaded .nwkSKey)) 0

/-- The CTRL word (R34). -/
def State.ctrlWord (s : State) : Word := place 32 (flag s.ie) 1 ||| place 32 (flag s.en) 0

/-- The STATUS word (R37). -/
def State.statusWord (s : State) : Word :=
  place 32 s.keyv 16 ||| place 32 s.errcode 8 ||| place 32 (flag s.werr) 5 ||| place 32 (flag s.cfgerr) 4 |||
    place 32 (flag s.err) 2 ||| place 32 (flag s.done) 1 ||| place 32 (flag s.busy) 0

/-- The SESS word (R45). -/
def State.sessWord (s : State) : Word := place 32 (flag s.ackPending) 1 ||| place 32 (flag s.awaitAck) 0

/-- The RESULT word (R54). -/
def State.resultWord (s : State) : Word := place 32 s.resultReason 1 ||| place 32 (flag s.resultOk) 0

/-- The interrupt output: IE and DONE (R74, R260). -/
def State.irq (s : State) : Bool := s.ie && s.done

/-- Whether the block asserts line `n` of the host's interrupt controller (R260, log 13). -/
def State.assertsLine (s : State) (n : Nat) : Bool := decide (n = Config.irqLine) && s.irq

/-- RESULT <- {OK, REASON}. -/
def State.setResult (s : State) (ok : Bool) (reason : BitVec 3) : State :=
  { s with resultOk := ok, resultReason := reason }

/-- A write to STATUS: each W1C bit that is 1 clears its flag (R39, R41, R42). -/
def State.writeStatus (s : State) (v : Word) : State :=
  { s with
    done := s.done && !v.getLsbD 1
    cfgerr := s.cfgerr && !v.getLsbD 4
    werr := s.werr && !v.getLsbD 5 }

/-- A write to CTRL (R34): EN and IE take the written bits, and clearing EN while BUSY aborts the PENDING command (R257). -/
def State.writeCtrl (s : State) (v : Word) : State :=
  let t := { s with en := v.getLsbD 0, ie := v.getLsbD 1 }
  if s.busy && s.en && !v.getLsbD 0 then t.finish .abort else t

/-- The SESS flags after a BUILD of type `mt` (R67, R205): ACK_PENDING cleared, AWAIT_ACK set if confirmed. -/
def State.sessAfterBuild (s : State) (mt : MType) : State :=
  { s with ackPending := false, awaitAck := s.awaitAck || confirmed mt }

/-- RX_HDR (R56): FCnt, FCtrl, MHDR. -/
def rxHdrWord (mhdr fctrl : Byte) (fcnt : BitVec 16) : Word :=
  place 32 fcnt 16 ||| place 32 fctrl 8 ||| place 32 mhdr 0

/-- RX_LAYOUT (R58): PAYLOAD_LEN, PAYLOAD_OFF, FPORT_PRESENT, FPORT. -/
def rxLayoutWord (plen poff : Nat) (present : Bool) (fport : Byte) : Word :=
  place 32 (BitVec.ofNat 8 plen) 24 ||| place 32 (BitVec.ofNat 8 poff) 16 ||| place 32 (flag present) 8 |||
    place 32 fport 0

/-- PARSE's effects before its FOpts check (R230, R231): AWAIT_ACK cleared by an ACK, RX_HDR and RX_DEVADDR written. -/
def State.recordHeader (s : State) (mhdr : Byte) (addr : Word) (fctrl : Byte) (fcnt : BitVec 16) : State :=
  { s with
    awaitAck := s.awaitAck && !fctrlAck fctrl
    rxHdr := rxHdrWord mhdr fctrl fcnt
    rxDevaddr := addr }

end Sys2Proof.Machine
end

