-- ==== Sys2Proof/Machine/Bus.lean ====
section
/-! DEFINITION. The host bus: the register map, and reads and writes of the window (R32 to R64, R80 to R95). -/

namespace Sys2Proof.Machine

/-- The registers of the window (R32). -/
inductive Reg where
  | id
  | ctrl
  | status
  | cmd
  | sess
  | devaddr
  | fcntUp
  | fcntDown
  | fport
  | opDevaddr
  | opFcnt
  | mic
  | micIn
  | result
  | flen
  | rxHdr
  | rxDevaddr
  | rxLayout
  | key (k : KeySlot) (w : Fin 4)
  | reserved
  deriving DecidableEq, Repr

/-- The key word at an offset, 0x050 + 16·slot + 4·word (R59). -/
def keyRegAt (off : Nat) : Reg :=
  let w : Fin 4 := Fin.ofNat 4 (off / 4)
  match (off - 0x050) / 16 with
  | 0 => .key .nwkSKey w
  | 1 => .key .appSKey w
  | 2 => .key .appKey w
  | _ => .reserved

/-- The register at a 4-aligned offset below 0x100 (R32, R62). -/
def regAt (off : Nat) : Reg :=
  match off with
  | 0x000 => .id
  | 0x004 => .ctrl
  | 0x008 => .status
  | 0x00C => .cmd
  | 0x010 => .sess
  | 0x014 => .devaddr
  | 0x018 => .fcntUp
  | 0x01C => .fcntDown
  | 0x020 => .fport
  | 0x024 => .opDevaddr
  | 0x028 => .opFcnt
  | 0x02C => .mic
  | 0x030 => .micIn
  | 0x034 => .result
  | 0x038 => .flen
  | 0x03C => .rxHdr
  | 0x040 => .rxDevaddr
  | 0x044 => .rxLayout
  | _ => if off < 0x050 then .reserved else keyRegAt off

/-! ### Reads -/

/-- What a register reads as while BUSY = 0 (R32 to R63). -/
def State.readReg (s : State) : Reg → Word
  | .id => Config.idValue
  | .ctrl => s.ctrlWord
  | .status => s.statusWord
  | .cmd => s.cmd
  | .sess => s.sessWord
  | .devaddr => s.devaddr
  | .fcntUp => s.fcntUp
  | .fcntDown => s.fcntDown
  | .fport => s.fport.setWidth 32
  | .opDevaddr => s.opDevaddr
  | .opFcnt => s.opFcnt
  | .mic => s.mic
  | .micIn => s.micIn
  | .result => s.resultWord
  | .flen => s.flen.setWidth 32
  | .rxHdr => s.rxHdr
  | .rxDevaddr => s.rxDevaddr
  | .rxLayout => s.rxLayout
  | .key _ _ => 0
  | .reserved => 0

/-- Whether a register's read is defined while BUSY = 1 (R95). -/
def Reg.definedWhileBusy : Reg → Bool
  | .id => true
  | .ctrl => true
  | .status => true
  | .cmd => true
  | .key _ _ => true
  | .reserved => true
  | .sess => false
  | .devaddr => false
  | .fcntUp => false
  | .fcntDown => false
  | .fport => false
  | .opDevaddr => false
  | .opFcnt => false
  | .mic => false
  | .micIn => false
  | .result => false
  | .flen => false
  | .rxHdr => false
  | .rxDevaddr => false
  | .rxLayout => false

/-- A read answered with a value; a read changes nothing else (R88). -/
def answer (s : State) (v : Word) : Result := .next { s with reply := .data v }

/-- A read answered with a fresh free value of `size` bytes (R95); the stored value is not touched. For a register whose
reserved bits R63 makes read 0 (SESS, FPORT, RESULT, FLEN, RX_LAYOUT) the whole word is drawn, those bits too:
DESIGN CHOICE, log 4. -/
def answerDraw (s : State) (size : Nat) : Result :=
  .next { s with
    reply := .data (BitVec.ofNat 32 ((Config.busyDraw s.draws).toNat % 2 ^ (8 * size)))
    draws := s.draws + 1 }

/-- A host read of a register (R32, R95). -/
def readRegister (r : Reg) (s : State) : Result :=
  if s.busy && !r.definedWhileBusy then answerDraw s 4 else answer s (s.readReg r)

/-- A host read of BUF[k..k+size) (R82, R72, R95). -/
def readBuffer (k size : Nat) (s : State) : Result :=
  if s.busy then answerDraw s size
  else
    match readBytes s.buf k size with
    | some data => answer s (wordOfLE data)
    | none => .fault (.uninitRead (Config.blockBase + (Config.bufOffset + k)))

/-! ### Writes -/

/-- A write that was taken by the bus. -/
def written (s : State) : Result := .next { s with reply := .written }

/-- A write dropped because BUSY = 1 (R93). -/
def State.dropBusy (s : State) : State := { s with werr := true }

/-- A configuration write dropped because EN = 1, else its effect (R36). -/
def State.locked (s t : State) : State := if s.en then { s with cfgerr := true } else t

/-- The effect of a host write to a register while BUSY = 0 (R32 to R63, R94). -/
def State.writeReg (s : State) (r : Reg) (v : Word) : State :=
  match r with
  | .id => s
  | .ctrl => s.writeCtrl v
  | .status => s.writeStatus v
  | .cmd => s.launch v
  | .sess => { s with awaitAck := v.getLsbD 0, ackPending := v.getLsbD 1 }
  | .devaddr => s.locked { s with devaddr := v }
  | .fcntUp => { s with fcntUp := v }
  | .fcntDown => { s with fcntDown := v }
  | .fport => { s with fport := v.setWidth 8 }
  | .opDevaddr => { s with opDevaddr := v }
  | .opFcnt => { s with opFcnt := v }
  | .mic => s
  | .micIn => { s with micIn := v }
  | .result => s
  | .flen => s
  | .rxHdr => s
  | .rxDevaddr => s
  | .rxLayout => s
  | .key k w => s.locked (s.writeKey k w v)
  | .reserved => s

/-- The registers whose writes take effect while BUSY = 1 (R93). -/
def Reg.writableWhileBusy (r : Reg) : Bool := r == .ctrl || r == .status

/-- A host write to a register (R93, R94). -/
def writeRegister (r : Reg) (v : Word) (s : State) : Result :=
  if s.busy && !r.writableWhileBusy then written s.dropBusy else written (s.writeReg r v)

/-- A host write of `size` bytes to BUF[k..k+size) (R82, R93). -/
def writeBuffer (k size : Nat) (v : Word) (s : State) : Result :=
  if s.busy then written s.dropBusy else written (s.memWrite k ((le32 v).take size))

/-! ### The window (R80, R82, R83) -/

/-- The offset of an address the block answers (R80). -/
def windowOffset (addr : Nat) : Option Nat :=
  if Config.blockBase ≤ addr ∧ addr < Config.blockBase + Config.windowSize then some (addr - Config.blockBase) else none

/-- A supported access (R82): a 4-aligned word in the register space, a naturally aligned 1, 2 or 4 bytes in BUF. -/
def supported (off size : Nat) : Bool :=
  if off < Config.bufOffset then size == 4 && off % 4 == 0
  else (size == 1 || size == 2 || size == 4) && off % size == 0

/-- Give `body` the offset of a supported access; a bus error for an unsupported one (R83), and no answer outside
the window (R80, log 6). -/
def withOffset (addr size : Nat) (s : State) (body : Nat → Result) : Result :=
  match windowOffset addr with
  | none => .next { s with reply := .noAnswer }
  | some off => if supported off size then body off else .fault (.busError addr)

/-- A read at a supported offset. -/
def readAt (off size : Nat) (s : State) : Result :=
  if off < Config.bufOffset then readRegister (regAt off) s else readBuffer (off - Config.bufOffset) size s

/-- A write at a supported offset. -/
def writeAt (off size : Nat) (v : Word) (s : State) : Result :=
  if off < Config.bufOffset then writeRegister (regAt off) v s else writeBuffer (off - Config.bufOffset) size v s

/-- BusRead(addr, size) (R22, R82). -/
def busRead (addr size : Nat) (s : State) : Result := withOffset addr size s fun off => readAt off size s

/-- BusWrite(addr, size, value) (R22, R82). -/
def busWrite (addr size : Nat) (v : Word) (s : State) : Result :=
  withOffset addr size s fun off => writeAt off size v s

end Sys2Proof.Machine
end

