-- ==== Sys2Proof/Machine/Aes.lean ====
section
/-! DEFINITION. AES-128 encryption (R140 to R145). The spec gives it from general knowledge: log 10. -/

namespace Sys2Proof.Machine

/-- The block whose byte i is `f i`. -/
def blockOfFn (f : Nat → Byte) : Block := blockOfBytes ((List.range 16).map f)

/-- The S-box table of R141, one row a high nibble, as printed there. -/
def sboxRows : List Block :=
  [0x637C777BF26B6FC53001672BFED7AB76, 0xCA82C97DFA5947F0ADD4A2AF9CA472C0,
   0xB7FD9326363FF7CC34A5E5F171D83115, 0x04C723C31896059A071280E2EB27B275] ++
  [0x09832C1A1B6E5AA0523BD6B329E32F84, 0x53D100ED20FCB15B6ACBBE394A4C58CF,
   0xD0EFAAFB434D338545F9027F503C9FA8, 0x51A3408F929D38F5BCB6DA2110FFF3D2] ++
  [0xCD0C13EC5F974417C4A77E3D645D1973, 0x60814FDC222A908846EEB814DE5E0BDB,
   0xE0323A0A4906245CC2D3AC629195E479, 0xE7C8376D8DD54EA96C56F4EA657AAE08] ++
  [0xBA78252E1CA6B4C6E8DD741F4BBD8B8A, 0x703EB5664803F60E613557B986C11D9E,
   0xE1F8981169D98E949B1E87E9CE5528DF, 0x8CA1890DBFE6426841992D0FB054BB16]

/-- SBOX[a]: row the high nibble, column the low nibble (R141). -/
def sbox (a : Byte) : Byte := blockByte (sboxRows.getD (a.toNat / 16) 0) (a.toNat % 16)

/-- xtime(a) (R140). -/
def xtime (a : Byte) : Byte := (a <<< 1) ^^^ (if a.getLsbD 7 then 0x1B else 0)

/-- mul3(a) (R143). -/
def mul3 (a : Byte) : Byte := xtime a ^^^ a

/-- SubBytes (R141). -/
def subBytes (x : Block) : Block := blockOfFn fun i => sbox (blockByte x i)

/-- ShiftRows (R142): state byte s[r][c] is block byte r + 4c, and s'[r][c] = s[r][(c + r) mod 4]. -/
def shiftRows (x : Block) : Block := blockOfFn fun i => blockByte x (i % 4 + 4 * ((i / 4 + i % 4) % 4))

/-- MixColumns (R143). Row r of its table is row 0 with the column's bytes taken from r on, cyclically. -/
def mixColumns (x : Block) : Block := blockOfFn fun i =>
  let a := fun r => blockByte x (r % 4 + 4 * (i / 4))
  xtime (a i) ^^^ mul3 (a (i + 1)) ^^^ a (i + 2) ^^^ a (i + 3)

/-- Word i of a round key, 4 bytes (R144). -/
def keyWord (k : Block) (i : Nat) : Word := k.extractLsb' (32 * (3 - i)) 32

/-- RotWord([a,b,c,d]) = [b,c,d,a] (R144). -/
def rotWord (t : Word) : Word := t.rotateLeft 8

/-- SubWord: SBOX on each byte (R144). -/
def subWord (t : Word) : Word :=
  place 32 (sbox (t.extractLsb' 24 8)) 24 ||| place 32 (sbox (t.extractLsb' 16 8)) 16 |||
    place 32 (sbox (t.extractLsb' 8 8)) 8 ||| place 32 (sbox (t.extractLsb' 0 8)) 0

/-- RCON (R144). -/
def rcon : List Byte := [0x01, 0x02, 0x04, 0x08, 0x10, 0x20, 0x40, 0x80, 0x1B, 0x36]

/-- The four words after the round key `k` (R144): only the first of them, whose index is a multiple of 4, goes
through RotWord, SubWord and RCON. -/
def nextRoundKey (k : Block) (rc : Byte) : Block :=
  let a := keyWord k 0 ^^^ subWord (rotWord (keyWord k 3)) ^^^ place 32 rc 24
  let b := keyWord k 1 ^^^ a
  let c := keyWord k 2 ^^^ b
  let d := keyWord k 3 ^^^ c
  place 128 a 96 ||| place 128 b 64 ||| place 128 c 32 ||| place 128 d 0

/-- The round keys after `k`, one for each RCON byte. -/
def laterRoundKeys (k : Block) : List Byte → List Block
  | [] => []
  | rc :: rest => nextRoundKey k rc :: laterRoundKeys (nextRoundKey k rc) rest

/-- Round keys 0 to 10 (R144). -/
def roundKeys (k : Block) : List Block := k :: laterRoundKeys k rcon

/-- The rounds that use the given keys; the last one has no MixColumns (R145). -/
def aesRounds : List Block → Block → Block
  | [], x => x
  | [k], x => shiftRows (subBytes x) ^^^ k
  | k :: rest, x => aesRounds rest (mixColumns (shiftRows (subBytes x)) ^^^ k)

/-- AES128_ENC(K, X) (R145). -/
def aes (k x : Block) : Block := aesRounds (laterRoundKeys k rcon) (x ^^^ k)

end Sys2Proof.Machine
end

