-- ==== Sys2Proof/Machine/Cmac.lean ====
section
/-! DEFINITION. AES-CMAC (R147 to R149). The spec gives it from general knowledge: log 10. -/

namespace Sys2Proof.Machine

/-- dbl(x) (R147): shift the 128-bit big-endian integer left, and XOR 0x87 into the last byte when a 1 fell out. -/
def dbl (x : Block) : Block := (x <<< 1) ^^^ (if x.getLsbD 127 then 0x87 else 0)

/-- Subkey K1 (R147). -/
def subkey1 (k : Block) : Block := dbl (aes k 0)

/-- Subkey K2 (R147). -/
def subkey2 (k : Block) : Block := dbl (subkey1 k)

/-- M_last from the message's last piece M_n, of at most 16 bytes (R148). -/
def lastBlock (k : Block) (m : List Byte) : Block :=
  if m.length = 16 then blockOfBytes m ^^^ subkey1 k
  else blockOfBytes (m ++ [0x80] ++ List.replicate (15 - m.length) 0) ^^^ subkey2 k

/-- The CBC chain from value `x`: `n` whole blocks of the message, then its last piece (R149). -/
def cbcMac (k : Block) : Nat → Block → List Byte → Block
  | 0, x, m => aes k (x ^^^ lastBlock k m)
  | n + 1, x, m => cbcMac k n (aes k (x ^^^ blockOfBytes (m.take 16))) (m.drop 16)

/-- CMAC(K, M): of the n = max(1, ceil(len(M)/16)) blocks the first n - 1 are whole (R148, R149). -/
def cmac (k : Block) (m : List Byte) : Block := cbcMac k ((m.length - 1) / 16) 0 m

end Sys2Proof.Machine
end

