-- ==== Sys2Proof/Machine/Lorawan.lean ====
section
/-! DEFINITION. The LoRaWAN blocks B0 and A_i, the MIC, and the payload cipher (R150 to R154). -/

namespace Sys2Proof.Machine

/-- B0(dir, addr, fcnt, n) (R151). -/
def b0 (dir : Dir) (addr fcnt : Word) (n : Nat) : List Byte :=
  [0x49, 0, 0, 0, 0, dirByte dir] ++ le32 addr ++ le32 fcnt ++ [0, BitVec.ofNat 8 n]

/-- A(dir, addr, fcnt, i) (R152). -/
def aBlock (dir : Dir) (addr fcnt : Word) (i : Nat) : List Byte :=
  [0x01, 0, 0, 0, 0, dirByte dir] ++ le32 addr ++ le32 fcnt ++ [0, BitVec.ofNat 8 (Config.ctrBase + i)]

/-- Mic4(K, dir, addr, fcnt, data): the first 4 bytes of CMAC(K, B0 ‖ data) (R150). -/
def mic4 (k : Block) (dir : Dir) (addr fcnt : Word) (data : List Byte) : List Byte :=
  (blockBytes (cmac k (b0 dir addr fcnt data.length ++ data))).take Config.micBytes

/-- Keystream block i, AES(K, A_i) (R153). -/
def keystreamBlock (k : Block) (dir : Dir) (addr fcnt : Word) (i : Nat) : List Byte :=
  blockBytes (aes k (blockOfBytes (aBlock dir addr fcnt i)))

/-- Keystream(K, dir, addr, fcnt, n): the first n bytes of blocks 0 to ceil(n/16) - 1 (R153). -/
def keystream (k : Block) (dir : Dir) (addr fcnt : Word) (n : Nat) : List Byte :=
  ((List.range ((n + 15) / 16)).flatMap (keystreamBlock k dir addr fcnt)).take n

/-- Crypt(K, dir, addr, fcnt, data) (R154). -/
def cryptBytes (k : Block) (dir : Dir) (addr fcnt : Word) (data : List Byte) : List Byte :=
  xorBytes data (keystream k dir addr fcnt data.length)

end Sys2Proof.Machine
end

