-- ==== Sys2Proof/Machine/Crypto.lean ====
section
/-! DEFINITION. The crypto commands MIC, VERIFY and CRYPT (42_crypto_commands.md). -/

namespace Sys2Proof.Machine

/-- The checks MIC, VERIFY and CRYPT share, in the order of R259, then the read of their region (R170, R175, R180). -/
def withPrimitive (ksel : KSel) (off len : Byte) (s : State) (body : KeySlot → List Byte → Result) : Result :=
  runChecked [(!s.en, .state)] s <|
    match ksel with
    | .noSlot => endCommand .opcode s
    | .slot k =>
      runChecked [(outOfRange off len, .range), (!s.keyLoaded k, .key)] s <|
        withBytes s off.toNat len.toNat (body k)

/-- The MIC of a primitive command over `data` (R170). -/
def State.primitiveMic (s : State) (k : KeySlot) (dir : Dir) (data : List Byte) : List Byte :=
  mic4 (s.key k) dir s.opDevaddr s.opFcnt data

/-- MIC (R170): MIC <- fromLE(T). -/
def execMic (ksel : KSel) (dir : Dir) (off len : Byte) (s : State) : Result :=
  withPrimitive ksel off len s fun k data =>
    endCommand .ok { s with mic := wordOfLE (s.primitiveMic k dir data) }

/-- VERIFY (R175): MIC <- fromLE(T), RESULT.OK <- (T = LE32(MIC_IN)), RESULT.REASON <- 0. -/
def execVerify (ksel : KSel) (dir : Dir) (off len : Byte) (s : State) : Result :=
  withPrimitive ksel off len s fun k data =>
    let t := s.primitiveMic k dir data
    endCommand .ok ({ s with mic := wordOfLE t }.setResult (decide (t = le32 s.micIn)) 0)

/-- CRYPT (R180): the region is replaced by Crypt of it. -/
def execCrypt (ksel : KSel) (dir : Dir) (off len : Byte) (s : State) : Result :=
  withPrimitive ksel off len s fun k data =>
    endCommand .ok (s.memWrite off.toNat (cryptBytes (s.key k) dir s.opDevaddr s.opFcnt data))

end Sys2Proof.Machine
end

