-- ==== Sys2Proof/Machine/Frame.lean ====
section
/-! DEFINITION. The frame commands BUILD, VALIDATE, PARSE and ADMIT (43_frame_commands.md). -/

namespace Sys2Proof.Machine

/-! ### BUILD (R205) -/

/-- BUILD's checks (R205). -/
def buildChecks (off len : Byte) (mt : MType) (s : State) : List (Bool × CmdCode) :=
  [(!s.en, .state), (!buildAccepts mt, .opcode), (outOfRange off len, .range),
   (decide (Config.maxPayload < len.toNat), .length), (!(s.keyLoaded .nwkSKey && s.keyLoaded .appSKey), .key)]

/-- Steps (1) and (2): the port and the encrypted payload, or nothing for an empty payload (R205). -/
def State.buildBody (s : State) (p : List Byte) : List Byte :=
  if p.length = 0 then []
  else s.fport :: cryptBytes (s.key .appSKey) .uplink s.devaddr s.fcntUp p

/-- Steps (3) to (6): the frame before its MIC (R205). -/
def State.buildMessage (s : State) (mt : MType) (p : List Byte) : List Byte :=
  [mhdrOf mt] ++ le32 s.devaddr ++ [fctrlOf s.ackPending] ++ le16 (s.fcntUp.setWidth 16) ++ s.buildBody p

/-- Step (7): the MIC of the assembled frame (R205). -/
def State.buildMic (s : State) (mt : MType) (p : List Byte) : List Byte :=
  mic4 (s.key .nwkSKey) .uplink s.devaddr s.fcntUp (s.buildMessage mt p)

/-- The finished frame (R205). -/
def State.buildFrame (s : State) (mt : MType) (p : List Byte) : List Byte :=
  s.buildMessage mt p ++ s.buildMic mt p

/-- BUILD (R205): the whole payload is read before the frame is written at BUF[0]. -/
def execBuild (off len : Byte) (mt : MType) (s : State) : Result :=
  runChecked (buildChecks off len mt s) s <|
    withBytes s off.toNat len.toNat fun p =>
      endCommand .ok
        ({ s with
            flen := BitVec.ofNat 8 ((s.buildMessage mt p).length + Config.micBytes)
            mic := wordOfLE (s.buildMic mt p) }.memWrite 0 (s.buildFrame mt p) |>.sessAfterBuild mt)

/-! ### VALIDATE (R215) -/

/-- VALIDATE's checks (R215). -/
def validateChecks (s : State) : List (Bool × CmdCode) :=
  [(!s.en, .state), (!s.keyLoaded .nwkSKey, .key)]

/-- A discarded frame: RESULT <- {OK 0, REASON}, which is no error (R215, R216, R261). -/
def discard (reason : BitVec 3) (s : State) : Result := endCommand .ok (s.setResult false reason)

/-- The MIC VALIDATE computes over a frame without its MIC (R215): the downlink direction, and the frame's own address and counter. -/
def State.validateMic (s : State) (addr : Word) (fcnt : BitVec 16) (data : List Byte) : List Byte :=
  mic4 (s.key .nwkSKey) .downlink addr (fcnt.setWidth 32) data

/-- Check 4 and the acceptance (R215): MIC is written, then RESULT, and FLEN on acceptance. -/
def validateFinish (n : Nat) (t claimed : List Byte) (s : State) : Result :=
  if t = claimed then
    endCommand .ok ({ s with mic := wordOfLE t, flen := BitVec.ofNat 8 (n - Config.micBytes) }.setResult true 0)
  else discard 4 { s with mic := wordOfLE t }

/-- VALIDATE (R215): the four checks in order, the first that fails is reported. -/
def execValidate (len : Byte) (s : State) : Result :=
  runChecked (validateChecks s) s <|
    if len.toNat < Config.minValidLen then discard 1 s
    else withByte s 0 fun mhdr =>
      if !downlinkData (mhdrType mhdr) then discard 2 s
      else withBytes s 1 4 fun addr =>
        if wordOfLE addr ≠ s.devaddr then discard 3 s
        else withBytes s 6 2 fun fcnt => withBytes s 0 (len.toNat - Config.micBytes) fun data =>
          withBytes s (len.toNat - Config.micBytes) Config.micBytes fun claimed =>
            validateFinish len.toNat (s.validateMic (wordOfLE addr) (fcntOf fcnt) data) claimed s

/-! ### PARSE (R230) -/

/-- PARSE's checks before any effect (R230). -/
def parseChecks (len : Byte) (s : State) : List (Bool × CmdCode) :=
  [(!s.en, .state), (!s.keyLoaded .appSKey, .key), (decide (len.toNat < Config.fixedHeaderLen), .size)]

/-- Where the bytes after FOpts start: the FPort byte, where there is one (R125, R230). -/
def afterFopts (fctrl : Byte) : Nat := Config.fixedHeaderLen + foptsLen fctrl

/-- PARSE from its FOpts check on, in the state that has the header recorded (R230): `n` is the frame length. -/
def parseRest (n : Nat) (fctrl : Byte) (fcnt : BitVec 16) (s : State) : Result :=
  if n < afterFopts fctrl then endCommand .size s
  else if n = afterFopts fctrl then endCommand .ok { s with rxLayout := rxLayoutWord 0 (afterFopts fctrl) false 0 }
  else if n = afterFopts fctrl + 1 then endCommand .size s
  else withByte s (afterFopts fctrl) fun fport =>
    withBytes s (afterFopts fctrl + 1) (n - (afterFopts fctrl + 1)) fun data =>
      endCommand .ok
        ({ s with rxLayout := rxLayoutWord (n - (afterFopts fctrl + 1)) (afterFopts fctrl + 1) true fport }.memWrite
          (afterFopts fctrl + 1) (cryptBytes (s.key .appSKey) .downlink s.devaddr (fcnt.setWidth 32) data))

/-- PARSE (R230). -/
def execParse (len : Byte) (s : State) : Result :=
  runChecked (parseChecks len s) s <|
    withByte s 0 fun mhdr => withBytes s 1 4 fun addr => withByte s 5 fun fctrl => withBytes s 6 2 fun fcnt =>
      parseRest len.toNat fctrl (fcntOf fcnt) (s.recordHeader mhdr (wordOfLE addr) fctrl (fcntOf fcnt))

/-! ### ADMIT (R222) -/

/-- ADMIT's checks (R222): it needs no key. -/
def admitChecks (len : Byte) (s : State) : List (Bool × CmdCode) :=
  [(!s.en, .state), (decide (len.toNat < Config.fixedHeaderLen), .size)]

/-- The admission comparison (R222, R223): two unsigned 16-bit values. -/
def State.admits (s : State) (fcnt : BitVec 16) : Bool := decide ((s.fcntDown.setWidth 16).toNat ≤ fcnt.toNat)

/-- ADMIT (R222). -/
def execAdmit (len : Byte) (s : State) : Result :=
  runChecked (admitChecks len s) s <|
    withBytes s 6 2 fun fcnt => endCommand .ok (s.setResult (s.admits (fcntOf fcnt)) 0)

end Sys2Proof.Machine
end

