-- ==== Sys2Proof/Machine/Dispatch.lean ====
section
/-! DEFINITION. The meaning of every command: one arm for each constructor of Instr. -/

namespace Sys2Proof.Machine

/-- The execution of a PENDING command up to and including its completion (R251). -/
def exec (i : Instr) (s : State) : Host.Outcome State Fault Refusal :=
  match i with
  | .mic ksel dir off len => Sys2Proof.Machine.execMic ksel dir off len s
  | .verify ksel dir off len => Sys2Proof.Machine.execVerify ksel dir off len s
  | .crypt ksel dir off len => Sys2Proof.Machine.execCrypt ksel dir off len s
  | .build off len mtype => Sys2Proof.Machine.execBuild off len mtype s
  | .validate len => Sys2Proof.Machine.execValidate len s
  | .parse len => Sys2Proof.Machine.execParse len s
  | .admitFrame len => Sys2Proof.Machine.execAdmit len s

end Sys2Proof.Machine
end

