-- ==== Sys2Proof/Machine/Engine.lean ====
section
/-! DEFINITION. The engine's step (R251), and one move of any agent. -/

namespace Sys2Proof.Machine

/-- Run a command word: its command, or OPCODE (STATE while stopped) for a word that is none (R251, R254). -/
def runWord (w : Word) (s : State) : Result :=
  match decode w with
  | .ok i => exec i s
  | .error _ => rejectWord s

/-- The engine's step (R251): it takes the PENDING word and runs it. With no PENDING command it does nothing (log 2). -/
def engineStep (s : State) : Result :=
  match s.pending with
  | none => .next s
  | some w => runWord w s

/-- One move (log 1). -/
def runMove (m : Move) (s : State) : Result :=
  match m with
  | .engine => engineStep s
  | .read addr size => busRead addr size s
  | .write addr size value => busWrite addr size value s
  | .reset => .next s.assertReset

/-- Take the next scheduled move, or, when none is left, the engine's step (R311, logs 1 and 2). -/
def takeMove (s : State) : Result :=
  match s.moves with
  | [] => engineStep s
  | m :: rest => runMove m { s with moves := rest }

/-- Make the engine's step the next one: it is already where nothing is scheduled (log 3). -/
def engineFirst (moves : List Move) : List Move :=
  match moves with
  | [] => []
  | _ :: _ => .engine :: moves

/-- `s` with `w` launched and the engine's step next (log 3). -/
def State.launchNext (s : State) (w : Word) : State :=
  { s.launch w with moves := engineFirst s.moves }

end Sys2Proof.Machine
end

