-- ==== Sys2Proof/Machine/Step.lean ====
section
/-! DEFINITION. One step of the machine, and where it takes its next command word from. -/

namespace Sys2Proof.Machine

/-- One step: one move of the host, the engine or RESET_IN (R30, logs 1 and 2). -/
def step (s : State) : Host.Outcome State Fault Refusal := takeMove s

/-- `s` with the table word launched as a CMD write would launch it (R44), so that the very next step runs it (log 3). -/
def State.withFetchWord (s : State) (nbits w : Nat) : State := s.launchNext (tableWord nbits w)

end Sys2Proof.Machine
end

