-- ==== Sys2Proof/Safety.lean ====
section
/-! DEFINITION. What counts as a good state and a safe run, in the terms claims use. -/

namespace Sys2Proof.Machine

/-- The relations between fields that every state of the block keeps. -/
structure State.Inv (s : State) : Prop where
  /-- The buffer lists its written bytes in canonical form, all below BUF_SIZE (R64, log 8). -/
  buf : Memory.wf s.buf = true
  /-- ERRCODE is a code of R250: 8 to 15 are never written. -/
  errcode : s.errcode.toNat ≤ 7
  /-- REASON is a reason of R216: 5 to 7 are never written. -/
  reason : s.resultReason.toNat ≤ 4
  /-- An OK result has reason 0 (R54, R216). -/
  accepted : s.resultOk = true → s.resultReason = 0
  /-- While a command is PENDING, CMD holds its word, DONE is 0 and ERRCODE is 0 (R44, R300, R306). -/
  busy : ∀ w, s.pending = some w → s.cmd = w ∧ s.done = false ∧ s.errcode = 0
  /-- RX_LAYOUT bits 15:9 read 0 (R58). -/
  layoutReserved : s.rxLayout.extractLsb' 9 7 = 0
  /-- FPORT_PRESENT is 1 exactly when the payload is non-empty, and the payload lies in the buffer (R58, R230). -/
  layoutPayload : (s.rxLayout.getLsbD 8 = true ↔ s.rxLayout.extractLsb' 24 8 ≠ 0) ∧
    (s.rxLayout.extractLsb' 16 8).toNat + (s.rxLayout.extractLsb' 24 8).toNat ≤ 255
  /-- FLEN is a trimmed frame length VALIDATE or BUILD can report (R206, R215). -/
  flen : s.flen.toNat ≤ 251

/-- An outcome that is a next state. -/
def proceeds (o : Result) : Prop := ∃ t, o = .next t

end Sys2Proof.Machine
end

