-- ==== Sys2Proof/Certificates/Slice0/Obligations.lean ====
section
/-! DEFINITION. The statements about the block for the provers. First the words they are written in, then the statements
in the order of OBLIGATIONS.json. -/

/-! ### The words of the statements -/

/-- A command has ended with an outcome code (R251): ERRCODE holds it, PENDING is empty and DONE is 1. -/
def Sys2Proof.Claims.ended (s : Sys2Proof.Machine.State) (code : BitVec 4) : Sys2Proof.Machine.State :=
  { s with errcode := code, pending := none, done := true }

/-- The accesses R82 allows, by offset in the window and width in bytes. -/
def Sys2Proof.Claims.legalAccess (off size : Nat) : Prop :=
  (off < 0x100 ∧ size = 4 ∧ off % 4 = 0) ∨
    (0x100 ≤ off ∧ off < 0x200 ∧ (size = 1 ∨ size = 2 ∨ size = 4) ∧ off % size = 0)

/-- The words R254 lists: they end in OPCODE. -/
def Sys2Proof.Claims.illegalWord (w : Sys2Proof.Word) : Prop :=
  Sys2Proof.opField w = 0 ∨ 8 ≤ (Sys2Proof.opField w).toNat ∨ w.getLsbD 7 = true ∨ w.extractLsb' 27 5 ≠ 0 ∨
    ((Sys2Proof.opField w = 1 ∨ Sys2Proof.opField w = 2 ∨ Sys2Proof.opField w = 3) ∧
      (Sys2Proof.mtypeField w ≠ 0 ∨ Sys2Proof.kselField w = 3)) ∨
    (Sys2Proof.opField w = 4 ∧ (Sys2Proof.kselField w ≠ 0 ∨ Sys2Proof.dirField w ≠ 0 ∨
      (Sys2Proof.mtypeField w ≠ 2 ∧ Sys2Proof.mtypeField w ≠ 4))) ∨
    ((Sys2Proof.opField w = 5 ∨ Sys2Proof.opField w = 6 ∨ Sys2Proof.opField w = 7) ∧
      (Sys2Proof.kselField w ≠ 0 ∨ Sys2Proof.dirField w ≠ 0 ∨ Sys2Proof.offField w ≠ 0 ∨ Sys2Proof.mtypeField w ≠ 0))

/-- The key slots a command needs (R255). -/
def Sys2Proof.Claims.slotsNeeded : Sys2Proof.Instr → List Sys2Proof.KeySlot
  | .mic (.slot k) _ _ _ => [k]
  | .mic .noSlot _ _ _ => []
  | .verify (.slot k) _ _ _ => [k]
  | .verify .noSlot _ _ _ => []
  | .crypt (.slot k) _ _ _ => [k]
  | .crypt .noSlot _ _ _ => []
  | .build _ _ _ => [.nwkSKey, .appSKey]
  | .validate _ => [.nwkSKey]
  | .parse _ => [.appSKey]
  | .admitFrame _ => []

/-- OFF + LEN of a command with a buffer region (R253), 0 for the others. -/
def Sys2Proof.Claims.regionEnd : Sys2Proof.Instr → Nat
  | .mic _ _ off len => off.toNat + len.toNat
  | .verify _ _ off len => off.toNat + len.toNat
  | .crypt _ _ off len => off.toNat + len.toNat
  | .build off len _ => off.toNat + len.toNat
  | .validate _ => 0
  | .parse _ => 0
  | .admitFrame _ => 0

/-- LEN of the commands that end in SIZE when it is below 8 (R258), and 8 for the others. -/
def Sys2Proof.Claims.headerLen : Sys2Proof.Instr → Nat
  | .parse len => len.toNat
  | .admitFrame len => len.toNat
  | .mic _ _ _ _ => 8
  | .verify _ _ _ _ => 8
  | .crypt _ _ _ _ => 8
  | .build _ _ _ => 8
  | .validate _ => 8

/-- LEN of BUILD (R256), and 0 for the others. -/
def Sys2Proof.Claims.payloadLen : Sys2Proof.Instr → Nat
  | .build _ len _ => len.toNat
  | .mic _ _ _ _ => 0
  | .verify _ _ _ _ => 0
  | .crypt _ _ _ _ => 0
  | .validate _ => 0
  | .parse _ => 0
  | .admitFrame _ => 0

/-- Whether an error of R252 to R256 and R258 applies to a command, each taken by itself. -/
def Sys2Proof.Claims.errorApplies (s : Sys2Proof.Machine.State) (i : Sys2Proof.Instr) :
    Sys2Proof.Machine.CmdCode → Bool
  | .state => !s.en
  | .opcode => !i.wellFormed
  | .range => decide (256 < Sys2Proof.Claims.regionEnd i)
  | .length => decide (20 < Sys2Proof.Claims.payloadLen i)
  | .key => (Sys2Proof.Claims.slotsNeeded i).any fun k => !s.keyLoaded k
  | .size => decide (Sys2Proof.Claims.headerLen i < 8)
  | .ok => false
  | .abort => false

/-- The order of the checks (R259, 1 to 6). -/
def Sys2Proof.Claims.checkOrder : List Sys2Proof.Machine.CmdCode := [.state, .opcode, .range, .length, .key, .size]

/-- Multiplication in GF(2^8) modulo 0x11B (R140), by the bits of the second factor. -/
def Sys2Proof.Claims.gfMul (a b : Sys2Proof.Byte) : Nat → Sys2Proof.Byte
  | 0 => 0
  | n + 1 => (if b.getLsbD (8 - (n + 1)) then a else 0) ^^^
      Sys2Proof.Claims.gfMul (Sys2Proof.Machine.xtime a) b n

/-- Word i of the key schedule, word i mod 4 of round key i / 4 (R144). -/
def Sys2Proof.Claims.scheduleWord (k : Sys2Proof.Block) (i : Nat) : Sys2Proof.Word :=
  Sys2Proof.Machine.keyWord ((Sys2Proof.Machine.roundKeys k).getD (i / 4) 0) (i % 4)

/-- The state PARSE has made once it has read the fixed header (R230): AWAIT_ACK, RX_HDR and RX_DEVADDR. -/
def Sys2Proof.Claims.headerParsed (s : Sys2Proof.Machine.State) (mhdr : Sys2Proof.Byte) (addr : List Sys2Proof.Byte)
    (fctrl : Sys2Proof.Byte) (fcnt : List Sys2Proof.Byte) : Sys2Proof.Machine.State :=
  { s with
    awaitAck := s.awaitAck && !fctrl.getLsbD 5
    rxHdr := BitVec.ofNat 32 (mhdr.toNat + 2 ^ 8 * fctrl.toNat + 2 ^ 16 * Sys2Proof.Machine.fromLE fcnt)
    rxDevaddr := BitVec.ofNat 32 (Sys2Proof.Machine.fromLE addr) }

/-- Two states that differ in the contents of key words alone, with the same WRITTEN bits. -/
def Sys2Proof.Claims.sameButKeyValues (s t : Sys2Proof.Machine.State) : Prop :=
  t = { s with nwkSKey := t.nwkSKey, appSKey := t.appSKey, appKey := t.appKey } ∧
    ∀ (k : Sys2Proof.KeySlot) (w : Fin 4), ((t.keyRegs k).word w).written = ((s.keyRegs k).word w).written

open Sys2Proof Sys2Proof.Machine Sys2Proof.Claims

/-! ### Encoding -/

/-- R110: where each field of the command word stands. -/
def Obligations.CommandWordFields : Prop :=
  ∀ w : Word,
    (opField w).toNat = w.toNat % 16 ∧ (kselField w).toNat = w.toNat / 2 ^ 4 % 4 ∧
    (dirField w).toNat = w.toNat / 2 ^ 6 % 2 ∧ (offField w).toNat = w.toNat / 2 ^ 8 % 256 ∧
    (lenField w).toNat = w.toNat / 2 ^ 16 % 256 ∧ (mtypeField w).toNat = w.toNat / 2 ^ 24 % 8 ∧
    (reservedClear w = true ↔ w.toNat / 2 ^ 7 % 2 = 0 ∧ w.toNat / 2 ^ 27 = 0)

/-- R128: the example words are the commands they are listed for. -/
def Obligations.ExampleWordsDecode : Prop :=
  decode 0x00100001 = .ok (.mic (.slot .nwkSKey) .uplink 0 16) ∧
  decode 0x000B0042 = .ok (.verify (.slot .nwkSKey) .downlink 0 11) ∧
  decode 0x00020953 = .ok (.crypt (.slot .appSKey) .downlink 9 2) ∧
  decode 0x02022004 = .ok (.build 0x20 2 .unconfirmedDataUp) ∧
  decode 0x04002004 = .ok (.build 0x20 0 .confirmedDataUp) ∧
  decode 0x000F0005 = .ok (.validate 15) ∧
  decode 0x000B0006 = .ok (.parse 11) ∧
  decode 0x000B0007 = .ok (.admitFrame 11)

/-- Decoding the encoding of a command gives the command back, with every operand at every value (R110, R118). -/
def Obligations.DecodeEncodeEveryCommand : Prop := ∀ i : Instr, decode (encode i) = .ok i

/-- A word that is a command is the encoding of that command: no bit of it is dropped (R110, R117, R118). -/
def Obligations.AcceptedWordsEncodeBack : Prop := ∀ (w : Word) (i : Instr), decode w = .ok i → encode i = w

/-- R119: the words that are well-formed commands are those the strict masks and the value constraints let through,
and OP selects the row. -/
def Obligations.StrictMasksSelectRows : Prop :=
  ∀ w : Word,
    ((∃ i, decode w = .ok i ∧ i.wellFormed = true) ↔
      ((w &&& 0xFF00008F = 1 ∨ w &&& 0xFF00008F = 2 ∨ w &&& 0xFF00008F = 3) ∧ kselField w ≠ 3) ∨
      (w &&& 0xF80000FF = 4 ∧ (mtypeField w = 2 ∨ mtypeField w = 4)) ∨
      (w &&& 0xFF00FFFF = 5 ∨ w &&& 0xFF00FFFF = 6 ∨ w &&& 0xFF00FFFF = 7)) ∧
    ∀ i, decode w = .ok i → i.op = opField w

/-! ### The step -/

/-- A step runs the decoded command (R251): the PENDING word's command is executed, and the step adds only that it takes
the engine's move off the schedule where one stands there (the schedule is the model's, logs 1 and 2). -/
def Obligations.StepRunsDecodedCommand : Prop :=
  ∀ (s : State) (w : Word) (i : Instr), s.pending = some w → decode w = .ok i →
    (s.moves = [] → step s = exec i s) ∧
    (∀ rest, s.moves = .engine :: rest → step s = exec i { s with moves := rest })

/-- The very next step runs a placed table word, in the state a launching CMD write of it leaves (R44; log 3). -/
def Obligations.PlacedWordRunsNext : Prop :=
  ∀ (s : State) (nbits w : Nat) (i : Instr), decodeTableWord nbits w = some i →
    step (s.withFetchWord nbits w) =
      exec i { s with cmd := tableWord nbits w, pending := some (tableWord nbits w), done := false, errcode := 0 }

/-- R251: where the engine's step answers with BUSY = 1, it has ended the command: BUSY 0, DONE 1, a code of R250. (Where it does
not answer it faults, R262.) With BUSY = 0, where R251 says that no step is enabled, it leaves the state as it is: the model's
choice (log 2). -/
def Obligations.EngineStepEndsTheCommand : Prop :=
  ∀ s t : State, engineStep s = .next t →
    (s.busy = false → t = s) ∧ (s.busy = true → t.busy = false ∧ t.done = true ∧ t.errcode.toNat ≤ 7)

/-- R262: a command ends, and the only way it does not is a MemRead of an unwritten byte. No command is refused. -/
def Obligations.CommandsFaultOnlyOnUnwrittenBytes : Prop :=
  ∀ (i : Instr) (s : State), (∃ t, exec i s = .next t) ∨
    ∃ off n, exec i s = .fault (.uninitCommand off n) ∧ ∃ j, off ≤ j ∧ j < off + n ∧ readByte s.buf j = none

/-! ### Command errors -/

/-- R252: any word executed while EN = 0 ends in STATE and nothing else. -/
def Obligations.StoppedBlockEndsInState : Prop :=
  ∀ (s : State) (w : Word), s.pending = some w → s.en = false → engineStep s = .next (ended s 1)

/-- R254: the illegal words, and no other, end in OPCODE while EN = 1, with no other effect. -/
def Obligations.IllegalWordsEndInOpcode : Prop :=
  ∀ (s : State) (w : Word), s.pending = some w → s.en = true →
    (illegalWord w → engineStep s = .next (ended s 2)) ∧
    (¬ illegalWord w → ∀ t, engineStep s = .next t → t.errcode ≠ 2)

/-- R259: of the errors that apply, the first in the order is reported, with no other effect; where none applies the
command ends in 0, or, a PARSE, in SIZE. -/
def Obligations.FirstApplicableErrorIsReported : Prop :=
  ∀ (s : State) (i : Instr),
    (∀ c, checkOrder.find? (errorApplies s i) = some c → exec i s = .next (ended s c.num)) ∧
    (checkOrder.find? (errorApplies s i) = none → ∀ t, exec i s = .next t →
      t.errcode = 0 ∨ (t.errcode = 6 ∧ ∃ len, i = .parse len))

/-- R263: every error is precise: a command that ends in an error changes nothing but STATUS, except PARSE's partial effects. -/
def Obligations.ErrorsArePrecise : Prop :=
  ∀ (i : Instr) (s t : State), exec i s = .next t → t.errcode ≠ 0 →
    t = ended s t.errcode ∨
    ((∃ len, i = .parse len) ∧
      t = ended { s with awaitAck := t.awaitAck, rxHdr := t.rxHdr, rxDevaddr := t.rxDevaddr } 6)

/-! ### The crypto commands -/

/-- MIC completes and writes MIC, and nothing but MIC and STATUS (R170). -/
def Obligations.MicWritesTheMic : Prop :=
  ∀ (s : State) (k : KeySlot) (dir : Dir) (off len : Byte) (data : List Byte),
    s.en = true → off.toNat + len.toNat ≤ 256 → s.keyLoaded k = true →
    readBytes s.buf off.toNat len.toNat = some data →
    exec (.mic (.slot k) dir off len) s =
      .next (ended { s with mic := wordOfLE (mic4 (s.key k) dir s.opDevaddr s.opFcnt data) } 0)

/-- VERIFY completes and writes MIC and RESULT: OK says whether the four bytes equal LE32(MIC_IN), REASON is 0 (R175). -/
def Obligations.VerifyComparesTheMic : Prop :=
  ∀ (s : State) (k : KeySlot) (dir : Dir) (off len : Byte) (data : List Byte),
    s.en = true → off.toNat + len.toNat ≤ 256 → s.keyLoaded k = true →
    readBytes s.buf off.toNat len.toNat = some data →
    exec (.verify (.slot k) dir off len) s =
      .next (ended { s with
        mic := wordOfLE (mic4 (s.key k) dir s.opDevaddr s.opFcnt data)
        resultOk := decide (mic4 (s.key k) dir s.opDevaddr s.opFcnt data = le32 s.micIn)
        resultReason := 0 } 0)

/-- CRYPT completes and replaces its region by Crypt of it, and nothing else (R180). -/
def Obligations.CryptTransformsTheRegion : Prop :=
  ∀ (s : State) (k : KeySlot) (dir : Dir) (off len : Byte) (data : List Byte),
    s.en = true → off.toNat + len.toNat ≤ 256 → s.keyLoaded k = true →
    readBytes s.buf off.toNat len.toNat = some data →
    exec (.crypt (.slot k) dir off len) s =
      .next (ended { s with
        buf := writeBytes s.buf off.toNat (cryptBytes (s.key k) dir s.opDevaddr s.opFcnt data) } 0)

/-- R171: equal key bytes, direction, address, counter and region contents give equal MIC values, whatever else differs. -/
def Obligations.MicIsDeterministic : Prop :=
  ∀ (s₁ s₂ t₁ t₂ : State) (k₁ k₂ : KeySlot) (dir : Dir) (off₁ off₂ len : Byte),
    (s₁.keyRegs k₁).bytes = (s₂.keyRegs k₂).bytes → s₁.opDevaddr = s₂.opDevaddr → s₁.opFcnt = s₂.opFcnt →
    readBytes s₁.buf off₁.toNat len.toNat = readBytes s₂.buf off₂.toNat len.toNat →
    exec (.mic (.slot k₁) dir off₁ len) s₁ = .next t₁ → t₁.errcode = 0 →
    exec (.mic (.slot k₂) dir off₂ len) s₂ = .next t₂ → t₂.errcode = 0 → t₁.mic = t₂.mic

/-- R176: where MIC completes, VERIFY of the same operands completes, writes the same MIC, and sets OK exactly when MIC_IN equals it. -/
def Obligations.VerifyAgreesWithMic : Prop :=
  ∀ (s t : State) (ksel : KSel) (dir : Dir) (off len : Byte),
    exec (.mic ksel dir off len) s = .next t → t.errcode = 0 →
    ∃ u, exec (.verify ksel dir off len) s = .next u ∧ u.errcode = 0 ∧ u.mic = t.mic ∧
      (u.resultOk = true ↔ s.micIn = t.mic)

/-- Applying CRYPT twice with equal operands restores the whole buffer (R155, R180), as equal lists in canonical form (log 8). -/
def Obligations.CryptTwiceRestoresTheBuffer : Prop :=
  ∀ (s t : State) (ksel : KSel) (dir : Dir) (off len : Byte), Memory.wf s.buf = true →
    exec (.crypt ksel dir off len) s = .next t → t.errcode = 0 →
    exec (.crypt ksel dir off len) t = .next { t with buf := s.buf }

/-! ### BUILD -/

/-- BUILD completes and writes the frame at BUF[0], FLEN, MIC and the SESS flags (R205). -/
def Obligations.BuildWritesTheFrame : Prop :=
  ∀ (s : State) (off len : Byte) (mt : MType) (p : List Byte),
    s.en = true → (mt = .unconfirmedDataUp ∨ mt = .confirmedDataUp) → off.toNat + len.toNat ≤ 256 → len.toNat ≤ 20 →
    s.keyLoaded .nwkSKey = true → s.keyLoaded .appSKey = true → readBytes s.buf off.toNat len.toNat = some p →
    ∀ m t : List Byte,
      m = [mt.num.setWidth 8 <<< 5] ++ le32 s.devaddr ++ [if s.ackPending then 0x20 else 0x00] ++
        le16 (s.fcntUp.setWidth 16) ++
        (if 0 < len.toNat then s.fport :: cryptBytes (s.key .appSKey) .uplink s.devaddr s.fcntUp p else []) →
      t = mic4 (s.key .nwkSKey) .uplink s.devaddr s.fcntUp m →
      exec (.build off len mt) s =
        .next (ended { s with
          buf := writeBytes s.buf 0 (m ++ t)
          flen := BitVec.ofNat 8 (m.length + 4)
          mic := wordOfLE t
          ackPending := false
          awaitAck := s.awaitAck || decide (mt = .confirmedDataUp) } 0)

/-- R206: the layout of the frame a successful BUILD leaves in the buffer, and FLEN. -/
def Obligations.BuildOutputLayout : Prop :=
  ∀ (s t : State) (off len : Byte) (mt : MType), exec (.build off len mt) s = .next t → t.errcode = 0 →
    readByte t.buf 0 = some (mt.num.setWidth 8 <<< 5) ∧
    readBytes t.buf 1 4 = some (le32 s.devaddr) ∧
    readByte t.buf 5 = some (if s.ackPending then 0x20 else 0x00) ∧
    readBytes t.buf 6 2 = some (le16 (s.fcntUp.setWidth 16)) ∧
    (0 < len.toNat → readByte t.buf 8 = some s.fport ∧ ∃ p, readBytes s.buf off.toNat len.toNat = some p ∧
      readBytes t.buf 9 len.toNat = some (cryptBytes (s.key .appSKey) .uplink s.devaddr s.fcntUp p)) ∧
    t.flen.toNat = (if len.toNat = 0 then 12 else 13 + len.toNat) ∧
    readBytes t.buf (t.flen.toNat - 4) 4 = some (le32 t.mic)

/-- The build and encrypt round trip (R233): CRYPT with AppSKey, uplink, the same address and counter over the payload of the
built frame gives the payload back. -/
def Obligations.BuildThenCryptRecoversPayload : Prop :=
  ∀ (s t : State) (off len : Byte) (mt : MType) (p : List Byte), exec (.build off len mt) s = .next t → t.errcode = 0 →
    readBytes s.buf off.toNat len.toNat = some p → 0 < len.toNat →
    ∃ u, exec (.crypt (.slot .appSKey) .uplink 9 len) { t with opDevaddr := s.devaddr, opFcnt := s.fcntUp } = .next u ∧
      u.errcode = 0 ∧ readBytes u.buf 9 len.toNat = some p

/-! ### VALIDATE, ADMIT, PARSE -/

/-- VALIDATE's discards (R215, R216): the checks run in the order listed, the first that fails gives the reason, and a discard is no error. -/
def Obligations.ValidateDiscardsInOrder : Prop :=
  ∀ (s : State) (len : Byte), s.en = true → s.keyLoaded .nwkSKey = true →
    (len.toNat < 12 → exec (.validate len) s = .next (ended { s with resultOk := false, resultReason := 1 } 0)) ∧
    (12 ≤ len.toNat → ∀ mhdr, readByte s.buf 0 = some mhdr →
      (mhdr.toNat / 32 ≠ 3 → mhdr.toNat / 32 ≠ 5 →
        exec (.validate len) s = .next (ended { s with resultOk := false, resultReason := 2 } 0)) ∧
      (mhdr.toNat / 32 = 3 ∨ mhdr.toNat / 32 = 5 → ∀ addr, readBytes s.buf 1 4 = some addr →
        (fromLE addr ≠ s.devaddr.toNat →
          exec (.validate len) s = .next (ended { s with resultOk := false, resultReason := 3 } 0)) ∧
        (fromLE addr = s.devaddr.toNat → ∀ fcnt data claimed, readBytes s.buf 6 2 = some fcnt →
          readBytes s.buf 0 (len.toNat - 4) = some data → readBytes s.buf (len.toNat - 4) 4 = some claimed →
          ∀ t, t = mic4 (s.key .nwkSKey) .downlink s.devaddr (BitVec.ofNat 32 (fromLE fcnt)) data → t ≠ claimed →
          exec (.validate len) s =
            .next (ended { s with mic := wordOfLE t, resultOk := false, resultReason := 4 } 0))))

/-- VALIDATE accepts exactly the frames that pass all four checks, with REASON 0, the trimmed length in FLEN and the MIC in MIC (R215, R216). -/
def Obligations.ValidateAcceptsExactlyGoodFrames : Prop :=
  ∀ (s : State) (len : Byte), s.en = true → s.keyLoaded .nwkSKey = true →
    (∀ mhdr addr fcnt data claimed, 12 ≤ len.toNat → readByte s.buf 0 = some mhdr →
      (mhdr.toNat / 32 = 3 ∨ mhdr.toNat / 32 = 5) → readBytes s.buf 1 4 = some addr → fromLE addr = s.devaddr.toNat →
      readBytes s.buf 6 2 = some fcnt → readBytes s.buf 0 (len.toNat - 4) = some data →
      readBytes s.buf (len.toNat - 4) 4 = some claimed →
      mic4 (s.key .nwkSKey) .downlink s.devaddr (BitVec.ofNat 32 (fromLE fcnt)) data = claimed →
      exec (.validate len) s = .next (ended { s with
        mic := wordOfLE claimed, flen := BitVec.ofNat 8 (len.toNat - 4), resultOk := true, resultReason := 0 } 0)) ∧
    (∀ t, exec (.validate len) s = .next t → t.resultOk = true →
      ∃ mhdr addr fcnt data, 12 ≤ len.toNat ∧ readByte s.buf 0 = some mhdr ∧
        (mhdr.toNat / 32 = 3 ∨ mhdr.toNat / 32 = 5) ∧ readBytes s.buf 1 4 = some addr ∧
        fromLE addr = s.devaddr.toNat ∧ readBytes s.buf 6 2 = some fcnt ∧
        readBytes s.buf 0 (len.toNat - 4) = some data ∧
        readBytes s.buf (len.toNat - 4) 4 =
          some (mic4 (s.key .nwkSKey) .downlink s.devaddr (BitVec.ofNat 32 (fromLE fcnt)) data))

/-- ADMIT completes with OK exactly when the frame's 16-bit FCnt is at least FCNT_DOWN[15:0] (R222), which for
FCNT_DOWN < 0x10000 is FCNT_DOWN itself (R223). -/
def Obligations.AdmitComparesCounters : Prop :=
  ∀ (s : State) (len : Byte) (fcnt : List Byte), s.en = true → 8 ≤ len.toNat → readBytes s.buf 6 2 = some fcnt →
    exec (.admitFrame len) s = .next (ended { s with
      resultOk := decide (s.fcntDown.toNat % 2 ^ 16 ≤ fromLE fcnt), resultReason := 0 } 0) ∧
    (s.fcntDown.toNat < 0x10000 → ∀ t, exec (.admitFrame len) s = .next t →
      (t.resultOk = true ↔ s.fcntDown.toNat ≤ fromLE fcnt))

/-- PARSE completes (R230): with a payload it reports FPort and the layout and decrypts the payload in place; where FOpts end
the frame there is neither FPort nor payload. -/
def Obligations.ParseReportsAndDecrypts : Prop :=
  ∀ (s : State) (len mhdr fctrl : Byte) (addr fcnt : List Byte) (fol : Nat),
    s.en = true → s.keyLoaded .appSKey = true → 8 ≤ len.toNat → readByte s.buf 0 = some mhdr →
    readBytes s.buf 1 4 = some addr → readByte s.buf 5 = some fctrl → readBytes s.buf 6 2 = some fcnt →
    fol = fctrl.toNat % 16 →
    (len.toNat = 8 + fol → exec (.parse len) s = .next (ended { headerParsed s mhdr addr fctrl fcnt with
      rxLayout := BitVec.ofNat 32 (2 ^ 16 * (8 + fol)) } 0)) ∧
    (9 + fol < len.toNat → ∀ fport data, readByte s.buf (8 + fol) = some fport →
      readBytes s.buf (9 + fol) (len.toNat - (9 + fol)) = some data →
      exec (.parse len) s = .next (ended { headerParsed s mhdr addr fctrl fcnt with
        rxLayout := BitVec.ofNat 32 (fport.toNat + 2 ^ 8 + 2 ^ 16 * (9 + fol) + 2 ^ 24 * (len.toNat - (9 + fol)))
        buf := writeBytes s.buf (9 + fol) (cryptBytes (s.key .appSKey) .downlink s.devaddr
          (BitVec.ofNat 32 (fromLE fcnt)) data) } 0))

/-- R231: PARSE that ends in SIZE at the FOpts or FPort check keeps the AWAIT_ACK clear and the writes of RX_HDR and RX_DEVADDR;
RX_LAYOUT and BUF are unchanged. -/
def Obligations.ParsePartialEffects : Prop :=
  ∀ (s : State) (len mhdr fctrl : Byte) (addr fcnt : List Byte),
    s.en = true → s.keyLoaded .appSKey = true → 8 ≤ len.toNat → readByte s.buf 0 = some mhdr →
    readBytes s.buf 1 4 = some addr → readByte s.buf 5 = some fctrl → readBytes s.buf 6 2 = some fcnt →
    (len.toNat < 8 + fctrl.toNat % 16 ∨ len.toNat = 9 + fctrl.toNat % 16) →
    exec (.parse len) s = .next (ended (headerParsed s mhdr addr fctrl fcnt) 6)

/-! ### Frames -/

/-- MIC, VERIFY, VALIDATE and ADMIT store nothing: every byte of the buffer reads as before, and only the named result
registers and STATUS change (R68, R170, R175, R217, R222). -/
def Obligations.FrameOfNonStoringCommands : Prop :=
  ∀ s t : State,
    (∀ ksel dir off len, exec (.mic ksel dir off len) s = .next t →
      t = { s with mic := t.mic, errcode := t.errcode, pending := t.pending, done := t.done }) ∧
    (∀ ksel dir off len, exec (.verify ksel dir off len) s = .next t →
      t = { s with mic := t.mic, resultOk := t.resultOk, resultReason := t.resultReason,
                   errcode := t.errcode, pending := t.pending, done := t.done }) ∧
    (∀ len, exec (.validate len) s = .next t →
      t = { s with mic := t.mic, flen := t.flen, resultOk := t.resultOk, resultReason := t.resultReason,
                   errcode := t.errcode, pending := t.pending, done := t.done }) ∧
    (∀ len, exec (.admitFrame len) s = .next t →
      t = { s with resultOk := t.resultOk, resultReason := t.resultReason,
                   errcode := t.errcode, pending := t.pending, done := t.done }) ∧
    (∀ i, ((∃ ksel dir off len, i = .mic ksel dir off len) ∨ (∃ ksel dir off len, i = .verify ksel dir off len) ∨
        (∃ len, i = .validate len) ∨ ∃ len, i = .admitFrame len) → exec i s = .next t →
      ∀ a, readByte t.buf a = readByte s.buf a)

/-- CRYPT changes STATUS and the bytes of its region alone (R68, R180). -/
def Obligations.FrameOfCrypt : Prop :=
  ∀ (s t : State) (ksel : KSel) (dir : Dir) (off len : Byte), exec (.crypt ksel dir off len) s = .next t →
    t = { s with buf := t.buf, errcode := t.errcode, pending := t.pending, done := t.done } ∧
    ∀ a, (a < off.toNat ∨ off.toNat + len.toNat ≤ a) → readByte t.buf a = readByte s.buf a

/-- BUILD changes FLEN, MIC, SESS, STATUS and the bytes of the frame alone (R68, R205). -/
def Obligations.FrameOfBuild : Prop :=
  ∀ (s t : State) (off len : Byte) (mt : MType), exec (.build off len mt) s = .next t →
    t = { s with buf := t.buf, flen := t.flen, mic := t.mic, awaitAck := t.awaitAck, ackPending := t.ackPending,
                 errcode := t.errcode, pending := t.pending, done := t.done } ∧
    ∀ a, (if len.toNat = 0 then 12 else 13 + len.toNat) ≤ a → readByte t.buf a = readByte s.buf a

/-- PARSE changes AWAIT_ACK, the RX registers, STATUS and the bytes of the payload alone, which starts after the FPort byte
(R68, R230). -/
def Obligations.FrameOfParse : Prop :=
  ∀ (s t : State) (len : Byte), exec (.parse len) s = .next t →
    t = { s with buf := t.buf, awaitAck := t.awaitAck, rxHdr := t.rxHdr, rxDevaddr := t.rxDevaddr, rxLayout := t.rxLayout,
                 errcode := t.errcode, pending := t.pending, done := t.done } ∧
    ∀ a, (∀ fctrl, readByte s.buf 5 = some fctrl → a < afterFopts fctrl + 1 ∨ len.toNat ≤ a) →
      readByte t.buf a = readByte s.buf a

/-- R181: CRYPT is the only command that stores at an offset of the host's choice; BUILD stores from BUF[0] and PARSE stores
only past a header, inside its frame. -/
def Obligations.OnlyCryptStoresAnywhere : Prop :=
  ∀ (i : Instr) (s t : State) (a : Nat), exec i s = .next t → readByte t.buf a ≠ readByte s.buf a →
    (∃ ksel dir off len, i = .crypt ksel dir off len ∧ off.toNat ≤ a ∧ a < off.toNat + len.toNat) ∨
    (∃ off len mt, i = .build off len mt ∧ a < t.flen.toNat ∧ t.flen.toNat ≤ 33) ∨
    (∃ len, i = .parse len ∧ (t.rxLayout.extractLsb' 16 8).toNat ≤ a ∧
      a < (t.rxLayout.extractLsb' 16 8).toNat + (t.rxLayout.extractLsb' 24 8).toNat)

/-! ### Cryptographic primitives -/

/-- R141: SBOX[a] is the affine image of the multiplicative inverse of a in GF(2^8), and of 0 for a = 0. -/
def Obligations.SboxIsAffineInverse : Prop :=
  ∀ a : Byte, ∃ b : Byte, ((a = 0 ∧ b = 0) ∨ gfMul a b 8 = 1) ∧
    sbox a = b ^^^ b.rotateLeft 1 ^^^ b.rotateLeft 2 ^^^ b.rotateLeft 3 ^^^ b.rotateLeft 4 ^^^ 0x63

/-- R144: the 44 words of the key schedule. -/
def Obligations.KeyScheduleRecurrence : Prop :=
  ∀ k : Block, (roundKeys k).length = 11 ∧
    (∀ i, i < 4 → scheduleWord k i = k.extractLsb' (96 - 32 * i) 32) ∧
    ∀ i, 4 ≤ i → i < 44 → scheduleWord k i = scheduleWord k (i - 4) ^^^
      (if i % 4 = 0 then subWord ((scheduleWord k (i - 1)).rotateLeft 8) ^^^
          (([0x01, 0x02, 0x04, 0x08, 0x10, 0x20, 0x40, 0x80, 0x1B, 0x36] : List Word).getD (i / 4 - 1) 0 <<< 24)
        else scheduleWord k (i - 1))

/-- R146: the known answers of AES-128. -/
def Obligations.AesKnownAnswers : Prop :=
  aes 0x000102030405060708090A0B0C0D0E0F 0x00112233445566778899AABBCCDDEEFF = 0x69C4E0D86A7B0430D8CDB78070B4C55A ∧
  (roundKeys 0x000102030405060708090A0B0C0D0E0F)[10]? = some 0x13111D7FE3944A17F307A78B4D2B30C5 ∧
  aes 0 0 = 0x66E94BD4EF8A2C3B884CFA59CA342B2E

/-- R147: dbl doubles the 128-bit integer, with 0x87 added in when a 1 fell out, and the subkeys are dbl(L) and dbl(K1). -/
def Obligations.SubkeysAreDoublings : Prop :=
  (∀ x : Block, (dbl x).toNat =
    if x.toNat < 2 ^ 127 then 2 * x.toNat else (2 * x.toNat - 2 ^ 128) ^^^ 0x87) ∧
  ∀ k : Block, subkey1 k = dbl (aes k 0) ∧ subkey2 k = dbl (subkey1 k)

/-- R148, R149: CMAC is the CBC chain over the whole blocks, closed with the last block, which is K1-masked when it is whole
and padded and K2-masked otherwise. -/
def Obligations.CmacIsCbcMac : Prop :=
  ∀ (k : Block) (blocks : List (List Byte)) (last : List Byte), (∀ b ∈ blocks, b.length = 16) → last.length ≤ 16 →
    (blocks ≠ [] → last ≠ []) →
    cmac k (blocks.flatten ++ last) =
      aes k (blocks.foldl (fun x b => aes k (x ^^^ blockOfBytes b)) 0 ^^^
        (if last.length = 16 then blockOfBytes last ^^^ subkey1 k
         else blockOfBytes (last ++ [0x80] ++ List.replicate (15 - last.length) 0x00) ^^^ subkey2 k))

/-- R150 to R152: the bytes of B0 and A_i, and the MIC as the first four bytes of CMAC(K, B0 ‖ data). -/
def Obligations.LorawanBlocksAndMic : Prop :=
  ∀ (k : Block) (dir : Dir) (addr fcnt : Word) (n : Nat) (data : List Byte),
    b0 dir addr fcnt n = [0x49, 0, 0, 0, 0, match dir with | .uplink => 0x00 | .downlink => 0x01,
      addr.extractLsb' 0 8, addr.extractLsb' 8 8, addr.extractLsb' 16 8, addr.extractLsb' 24 8,
      fcnt.extractLsb' 0 8, fcnt.extractLsb' 8 8, fcnt.extractLsb' 16 8, fcnt.extractLsb' 24 8, 0, BitVec.ofNat 8 n] ∧
    aBlock dir addr fcnt n = [0x01, 0, 0, 0, 0, match dir with | .uplink => 0x00 | .downlink => 0x01,
      addr.extractLsb' 0 8, addr.extractLsb' 8 8, addr.extractLsb' 16 8, addr.extractLsb' 24 8,
      fcnt.extractLsb' 0 8, fcnt.extractLsb' 8 8, fcnt.extractLsb' 16 8, fcnt.extractLsb' 24 8, 0, BitVec.ofNat 8 n] ∧
    mic4 k dir addr fcnt data = (blockBytes (cmac k (b0 dir addr fcnt data.length ++ data))).take 4 ∧
    (mic4 k dir addr fcnt data).length = 4

/-- R154: byte j of Crypt is byte j of the data XORed with byte j mod 16 of AES(K, A_(j/16)); the length is kept (R156). -/
def Obligations.CryptBytewise : Prop :=
  ∀ (k : Block) (dir : Dir) (addr fcnt : Word) (data : List Byte),
    (cryptBytes k dir addr fcnt data).length = data.length ∧
    ∀ (j : Nat) (x : Byte), data[j]? = some x → (cryptBytes k dir addr fcnt data)[j]? =
      some (x ^^^ blockByte (aes k (blockOfBytes (aBlock dir addr fcnt (j / 16)))) (j % 16))

/-- R155: Crypt is its own inverse. -/
def Obligations.CryptIsAnInvolution : Prop :=
  ∀ (k : Block) (dir : Dir) (addr fcnt : Word) (data : List Byte),
    cryptBytes k dir addr fcnt (cryptBytes k dir addr fcnt data) = data

/-! ### The host bus

The schedule `moves`, the bus reply `reply` and the counter `draws` that these statements mention are the model's own (logs 1, 14, 4). -/

/-- R93: while BUSY = 1 a write to any offset but CTRL and STATUS is dropped and sets WERR; a write to CTRL takes effect, the abort of
R257 (code 7) included; a write to STATUS takes effect on the W1C bits. -/
def Obligations.BusyWritesAreDropped : Prop :=
  ∀ (s : State) (off size : Nat) (v : Word) (rest : List Move),
    s.moves = .write (Config.blockBase + off) size v :: rest → legalAccess off size → s.busy = true →
    (off ≠ 0x004 → off ≠ 0x008 → step s = .next { s with moves := rest, werr := true, reply := .written }) ∧
    (off = 0x004 → step s = .next { s with
      moves := rest
      en := v.getLsbD 0
      ie := v.getLsbD 1
      pending := if s.en = true ∧ v.getLsbD 0 = false then none else s.pending
      done := if s.en = true ∧ v.getLsbD 0 = false then true else s.done
      errcode := if s.en = true ∧ v.getLsbD 0 = false then 7 else s.errcode
      reply := .written }) ∧
    (off = 0x008 → step s = .next { s with
      moves := rest
      done := s.done && !v.getLsbD 1
      cfgerr := s.cfgerr && !v.getLsbD 4
      werr := s.werr && !v.getLsbD 5
      reply := .written })

/-- R257: a write to CTRL that changes EN from 1 to 0 while BUSY = 1 aborts the command, which then has no effect;
any other write to CTRL does not abort. -/
def Obligations.StoppingAbortsTheCommand : Prop :=
  ∀ (s : State) (v : Word) (rest : List Move), s.moves = .write (Config.blockBase + 0x004) 4 v :: rest →
    (s.busy = true → s.en = true → v.getLsbD 0 = false →
      step s = .next { s with
        moves := rest, en := false, ie := v.getLsbD 1, pending := none, done := true, errcode := 7, reply := .written }) ∧
    (s.busy = false ∨ s.en = false ∨ v.getLsbD 0 = true →
      step s = .next { s with moves := rest, en := v.getLsbD 0, ie := v.getLsbD 1, reply := .written })

/-- R36: a write to DEVADDR or a key word while EN = 1 has no effect but CFGERR; while EN = 0 it takes effect. -/
def Obligations.ConfigurationLock : Prop :=
  ∀ (s : State) (v : Word) (rest : List Move) (off : Nat), s.busy = false →
    s.moves = .write (Config.blockBase + off) 4 v :: rest →
    (s.en = true → (off = 0x014 ∨ (0x050 ≤ off ∧ off < 0x080 ∧ off % 4 = 0)) →
      step s = .next { s with moves := rest, cfgerr := true, reply := .written }) ∧
    (s.en = false → off = 0x014 → step s = .next { s with moves := rest, devaddr := v, reply := .written }) ∧
    (s.en = false → ∀ (k : KeySlot) (w : Fin 4), off = 0x050 + 16 * k.num.toNat + 4 * w.val →
      ∃ t, step s = .next t ∧ (t.keyRegs k).word w = ⟨v, true⟩ ∧
        (∀ w', w' ≠ w → (t.keyRegs k).word w' = (s.keyRegs k).word w') ∧
        (∀ k', k' ≠ k → t.keyRegs k' = s.keyRegs k') ∧
        t = { s with moves := rest, reply := .written, nwkSKey := t.nwkSKey, appSKey := t.appSKey, appKey := t.appKey })

/-- R43, R59, R60: writing the four words of a slot while stopped loads it, and its key is the words' bytes in order. -/
def Obligations.FourWritesLoadAKeySlot : Prop :=
  ∀ (s : State) (k : KeySlot) (v₀ v₁ v₂ v₃ : Word) (rest : List Move), s.busy = false → s.en = false →
    s.moves =
      .write (Config.blockBase + (0x050 + 16 * k.num.toNat)) 4 v₀ ::
      .write (Config.blockBase + (0x054 + 16 * k.num.toNat)) 4 v₁ ::
      .write (Config.blockBase + (0x058 + 16 * k.num.toNat)) 4 v₂ ::
      .write (Config.blockBase + (0x05C + 16 * k.num.toNat)) 4 v₃ :: rest →
    ∃ t, Host.Core.run Sys2Proof.core 4 s = .next t ∧ t.moves = rest ∧ t.keyLoaded k = true ∧
      (t.keyRegs k).bytes = le32 v₀ ++ le32 v₁ ++ le32 v₂ ++ le32 v₃ ∧ ∀ k', k' ≠ k → t.keyRegs k' = s.keyRegs k'

/-- R44: a write to CMD while BUSY = 0 launches the word, whatever EN is and whatever the word holds. -/
def Obligations.CmdWriteLaunches : Prop :=
  ∀ (s : State) (w : Word) (rest : List Move), s.moves = .write (Config.blockBase + 0x00C) 4 w :: rest →
    s.busy = false →
    step s = .next { s with
      moves := rest, cmd := w, pending := some w, done := false, errcode := 0, reply := .written }

/-- R88: a read changes nothing of the block; only the bus reply and the model's draw counter move. -/
def Obligations.ReadsHaveNoSideEffects : Prop :=
  ∀ (s t : State) (addr size : Nat) (rest : List Move), s.moves = .read addr size :: rest → step s = .next t →
    t = { s with moves := rest, reply := t.reply, draws := t.draws }

/-- R95: while BUSY = 1 the reads of ID, CTRL, STATUS and CMD are defined, key and reserved offsets read 0, and every other
read is a fresh free draw. The draw's value is left open; that it covers a register's reserved bits too is the model's choice (log 4). -/
def Obligations.BusyReads : Prop :=
  ∀ (s : State) (off size : Nat) (rest : List Move), s.moves = .read (Config.blockBase + off) size :: rest →
    legalAccess off size → s.busy = true →
    (off = 0x000 → step s = .next { s with moves := rest, reply := .data 0x4C525743 }) ∧
    (off = 0x004 → step s = .next { s with moves := rest, reply := .data s.ctrlWord }) ∧
    (off = 0x008 → step s = .next { s with moves := rest, reply := .data s.statusWord }) ∧
    (off = 0x00C → step s = .next { s with moves := rest, reply := .data s.cmd }) ∧
    (0x048 ≤ off → off < 0x100 → step s = .next { s with moves := rest, reply := .data 0 }) ∧
    ((0x010 ≤ off ∧ off ≤ 0x044) ∨ 0x100 ≤ off → step s = .next { s with
      moves := rest
      draws := s.draws + 1
      reply := .data (BitVec.ofNat 32 ((Config.busyDraw s.draws).toNat % 2 ^ (8 * size))) })

/-- R32 to R63: what each register offset reads as while BUSY = 0; key and reserved offsets read 0. -/
def Obligations.IdleRegisterReads : Prop :=
  ∀ (s : State) (off : Nat) (v : Word) (rest : List Move), s.moves = .read (Config.blockBase + off) 4 :: rest →
    s.busy = false →
    ((off, v) ∈ [(0x000, 0x4C525743), (0x004, BitVec.ofNat 32 (s.en.toNat + 2 * s.ie.toNat)), (0x008, s.statusWord),
        (0x00C, s.cmd), (0x010, BitVec.ofNat 32 (s.awaitAck.toNat + 2 * s.ackPending.toNat)), (0x014, s.devaddr),
        (0x018, s.fcntUp), (0x01C, s.fcntDown), (0x020, BitVec.ofNat 32 s.fport.toNat), (0x024, s.opDevaddr),
        (0x028, s.opFcnt)] ++
        [(0x02C, s.mic), (0x030, s.micIn), (0x034, BitVec.ofNat 32 (s.resultOk.toNat + 2 * s.resultReason.toNat)),
        (0x038, BitVec.ofNat 32 s.flen.toNat), (0x03C, s.rxHdr), (0x040, s.rxDevaddr), (0x044, s.rxLayout)] ∨
      (0x048 ≤ off ∧ off < 0x100 ∧ off % 4 = 0 ∧ v = 0)) →
    step s = .next { s with moves := rest, reply := .data v }

/-- R32, R33, R45 to R58, R62, R63: what a write to each unlocked register does while BUSY = 0; read-only and reserved offsets ignore it. -/
def Obligations.IdleRegisterWrites : Prop :=
  ∀ (s t : State) (off : Nat) (v : Word) (rest : List Move), s.moves = .write (Config.blockBase + off) 4 v :: rest →
    s.busy = false →
    ((off, t) ∈ [(0x004, { s with en := v.getLsbD 0, ie := v.getLsbD 1 }),
        (0x008, { s with done := s.done && !v.getLsbD 1, cfgerr := s.cfgerr && !v.getLsbD 4, werr := s.werr && !v.getLsbD 5 }),
        (0x010, { s with awaitAck := v.getLsbD 0, ackPending := v.getLsbD 1 }), (0x018, { s with fcntUp := v }),
        (0x01C, { s with fcntDown := v }), (0x020, { s with fport := v.extractLsb' 0 8 }), (0x024, { s with opDevaddr := v }),
        (0x028, { s with opFcnt := v }), (0x030, { s with micIn := v })] ∨
      (off ∈ [0x000, 0x02C, 0x034, 0x038, 0x03C, 0x040, 0x044, 0x048, 0x04C] ∧ t = s) ∨
      (0x080 ≤ off ∧ off < 0x100 ∧ off % 4 = 0 ∧ t = s)) →
    step s = .next { t with moves := rest, reply := .written }

/-- R37: the STATUS word, with BUSY, ERR and KEYV as R38, R40 and R43 define them. -/
def Obligations.StatusWordLayout : Prop :=
  ∀ s : State,
    s.statusWord.toNat = (if s.pending.isSome then 1 else 0) + 2 * s.done.toNat + (if s.errcode = 0 then 0 else 4) +
      16 * s.cfgerr.toNat + 32 * s.werr.toNat + 256 * s.errcode.toNat +
      65536 * ((s.keyLoaded .nwkSKey).toNat + 2 * (s.keyLoaded .appSKey).toNat + 4 * (s.keyLoaded .appKey).toNat) ∧
    ∀ k, (s.keyLoaded k = true ↔ ∀ w, ((s.keyRegs k).word w).written = true)

/-- R74, R260: IRQ is IE AND DONE; completion raises it where enabled (R39, R251), and a launch (R44) and a STATUS write with
bit 1 (R39) lower it. -/
def Obligations.InterruptFollowsDone : Prop :=
  (∀ s : State, s.irq = true ↔ s.ie = true ∧ s.done = true) ∧
  (∀ (s t : State), s.busy = true → engineStep s = .next t → t.irq = s.ie) ∧
  (∀ (s t : State) (v : Word) (rest : List Move), s.moves = .write (Config.blockBase + 0x00C) 4 v :: rest →
    s.busy = false → step s = .next t → t.irq = false) ∧
  (∀ (s t : State) (v : Word) (rest : List Move), s.moves = .write (Config.blockBase + 0x008) 4 v :: rest →
    v.getLsbD 1 = true → step s = .next t → t.irq = false)

/-- R82, R86, R72: the buffer on the bus while BUSY = 0: writes and reads are little-endian, the other bytes stay, and a read of an
unwritten byte faults. -/
def Obligations.BufferAccessesAreLittleEndian : Prop :=
  ∀ (s : State) (k size : Nat) (rest : List Move), s.busy = false → legalAccess (0x100 + k) size →
    (∀ v, s.moves = .write (Config.blockBase + (0x100 + k)) size v :: rest →
      ∃ t, step s = .next t ∧ t = { s with moves := rest, buf := t.buf, reply := .written } ∧
        (∀ j, j < size → readByte t.buf (k + j) = some (v.extractLsb' (8 * j) 8)) ∧
        ∀ a, (a < k ∨ k + size ≤ a) → readByte t.buf a = readByte s.buf a) ∧
    (s.moves = .read (Config.blockBase + (0x100 + k)) size :: rest →
      (∀ d, readBytes s.buf k size = some d →
        step s = .next { s with moves := rest, reply := .data (BitVec.ofNat 32 (fromLE d)) }) ∧
      (∀ j, j < size → readByte s.buf (k + j) = none →
        step s = .fault (.uninitRead (Config.blockBase + (0x100 + k)))))

/-- R83: every access of the window that R82 does not allow is a bus error. -/
def Obligations.UnsupportedAccessesFault : Prop :=
  ∀ (s : State) (off size : Nat) (rest : List Move), off < 0x200 → ¬ legalAccess off size →
    (s.moves = .read (Config.blockBase + off) size :: rest →
      step s = .fault (.busError (Config.blockBase + off))) ∧
    (∀ v, s.moves = .write (Config.blockBase + off) size v :: rest →
      step s = .fault (.busError (Config.blockBase + off)))

/-! ### Reset and whole-machine rules -/

/-- R70 to R73 and R291: the state after reset, and what asserting RESET_IN leaves, whatever was PENDING. In the second clause
two things are the model's choice: the key contents, which R71 leaves unspecified, are 0 (log 7), and the moves still to come
and the draw counter stay (log 17). -/
def Obligations.ResetLeavesTheResetState : Prop :=
  (State.reset.en = false ∧ State.reset.ie = false ∧ State.reset.statusWord = 0 ∧ State.reset.cmd = 0 ∧
    State.reset.sessWord = 0 ∧ State.reset.devaddr = 0 ∧ State.reset.fcntUp = 0 ∧ State.reset.fcntDown = 0 ∧
    State.reset.fport = 0 ∧ State.reset.opDevaddr = 0 ∧ State.reset.opFcnt = 0 ∧ State.reset.mic = 0 ∧
    State.reset.micIn = 0 ∧ State.reset.resultWord = 0 ∧ State.reset.flen = 0 ∧ State.reset.rxHdr = 0 ∧
    State.reset.rxDevaddr = 0 ∧ State.reset.rxLayout = 0 ∧ State.reset.pending = none ∧ State.reset.irq = false ∧
    (∀ k w, ((State.reset.keyRegs k).word w).written = false) ∧ ∀ a, readByte State.reset.buf a = none) ∧
  ∀ (s : State) (rest : List Move), s.moves = .reset :: rest →
    step s = .next { State.reset with moves := rest, draws := s.draws }

/-- The reset state has the invariant; the buffer's canonical form in it is the model's choice (log 8). -/
def Obligations.ResetHasTheInvariant : Prop := State.reset.Inv

/-- Every step keeps the invariant: the buffer's canonical form (the model's choice, log 8), the codes and reasons that are
never written, the reserved bits of RX_LAYOUT, and CMD, DONE and ERRCODE while BUSY (R44, R58, R64, R216, R250). -/
def Obligations.EveryStepKeepsTheInvariant : Prop := ∀ s t : State, s.Inv → step s = .next t → t.Inv

/-- Every launched command ends (R311), by completion or abort: once the scheduled moves are taken and the engine has had
its step, nothing is PENDING. That the engine steps when no move is left is the model's rendering of fairness (log 2). -/
def Obligations.EveryCommandEnds : Prop :=
  ∀ s t : State, Host.Core.run Sys2Proof.core (s.moves.length + 1) s = .next t → t.pending = none ∧ t.moves = []

/-- R36, R61: keys and the device address are read-only while EN = 1, whatever step is taken, short of reset. -/
def Obligations.ConfigurationIsFixedWhileRunning : Prop :=
  ∀ s t : State, s.en = true → (∀ rest, s.moves ≠ .reset :: rest) → step s = .next t →
    t.nwkSKey = s.nwkSKey ∧ t.appSKey = s.appSKey ∧ t.appKey = s.appKey ∧ t.devaddr = s.devaddr

/-- R67: only a successful BUILD, a PARSE that sees an ACK, a host write to SESS, and reset change the SESS flags. -/
def Obligations.OnlyTheseEventsChangeSess : Prop :=
  ∀ s t : State, step s = .next t → (t.awaitAck ≠ s.awaitAck ∨ t.ackPending ≠ s.ackPending) →
    (∃ rest, s.moves = .reset :: rest) ∨
    (∃ rest v, s.moves = .write (Config.blockBase + 0x010) 4 v :: rest ∧ s.busy = false ∧
      t.awaitAck = v.getLsbD 0 ∧ t.ackPending = v.getLsbD 1) ∨
    ((s.moves = [] ∨ ∃ rest, s.moves = .engine :: rest) ∧ ∃ w i, s.pending = some w ∧ decode w = .ok i ∧
      ((∃ off len mt, i = .build off len mt ∧ t.errcode = 0 ∧ t.ackPending = false ∧
          t.awaitAck = (s.awaitAck || decide (mt = .confirmedDataUp))) ∨
        (∃ len fctrl, i = .parse len ∧ readByte s.buf 5 = some fctrl ∧ fctrl.getLsbD 5 = true ∧
          s.awaitAck = true ∧ t.awaitAck = false ∧ t.ackPending = s.ackPending)))

/-- R59: keys are never readable by the host: of two states that differ in key contents alone, any host access or reset gives the
same outcome and the same reply, and the states differ in key contents alone again. -/
def Obligations.HostNeverReadsKeys : Prop :=
  ∀ (s s' : State) (m : Move) (rest : List Move), sameButKeyValues s s' → s.moves = m :: rest → m ≠ .engine →
    (∀ t, step s = .next t → ∃ t', step s' = .next t' ∧ t'.reply = t.reply ∧ sameButKeyValues t t') ∧
    (∀ f, step s = .fault f → step s' = .fault f)
end

