-- ==== Sys2Proof/Laws/Buf.lean ====
section
/-! SUPPORT. The laws of the frame buffer: reads after writes, ranges, and the canonical form. -/

namespace Sys2Proof.Machine

/-! ### One byte -/

/-- A byte read after a byte write: the byte written, or the byte that was there. -/
theorem readByte_writeByte (m : Buf) (k j : Nat) (v : Byte) :
    readByte (writeByte m k v) j = if k = j then some v else readByte m j := by
  induction m with
  | nil => simp [writeByte, readByte]
  | cons c m ih =>
    obtain ⟨a, b⟩ := c
    by_cases h1 : k < a
    · simp [writeByte, h1, readByte]
    · by_cases h2 : k = a
      · subst h2; simp only [writeByte, readByte, h1, if_false, if_true]; split <;> rfl
      · simp only [writeByte, readByte, h1, h2, if_false, ih]
        by_cases h3 : a = j
        · subst h3; simp [h2]
        · simp [h3]

/-! ### Ranges -/

/-- Range read: the bytes it answers are the bytes of the buffer, in order. -/
theorem readBytes_eq_some (m : Buf) (k n : Nat) (d : List Byte) :
    readBytes m k n = some d ↔ d.length = n ∧ ∀ i (h : i < d.length), readByte m (k + i) = some d[i] := by
  induction n generalizing k d with
  | zero => cases d <;> simp [readBytes]
  | succ n ih =>
    constructor
    · intro h
      simp only [readBytes] at h
      split at h
      · rename_i b bs hb hbs
        obtain rfl : b :: bs = d := by simpa using h
        obtain ⟨hl, hr⟩ := (ih _ _).1 hbs
        refine ⟨by simp [hl], fun i hi => ?_⟩
        cases i with
        | zero => simpa using hb
        | succ i => simpa [Nat.add_assoc, Nat.add_comm 1] using hr i (by simpa using hi)
      · cases h
    · rintro ⟨hl, hr⟩
      cases d with
      | nil => simp at hl
      | cons b bs =>
        have hb : readByte m k = some b := hr 0 (by simp)
        have hbs : readBytes m (k + 1) n = some bs := (ih _ _).2
          ⟨by simpa using hl, fun i hi => by
            rw [Nat.add_assoc, Nat.add_comm 1]; exact hr (i + 1) (by simpa using hi)⟩
        simp [readBytes, hb, hbs]

/-- The length of what a range read answers. -/
theorem readBytes_length {m : Buf} {k n : Nat} {d : List Byte} (h : readBytes m k n = some d) : d.length = n :=
  ((readBytes_eq_some m k n d).1 h).1

/-- Each byte of what a range read answers. -/
theorem readBytes_getElem {m : Buf} {k n : Nat} {d : List Byte} (h : readBytes m k n = some d) (i : Nat)
    (hi : i < d.length) : readByte m (k + i) = some d[i] :=
  ((readBytes_eq_some m k n d).1 h).2 i hi

/-- A range read fails exactly where one of its bytes is unwritten. -/
theorem readBytes_eq_none (m : Buf) (k n : Nat) :
    readBytes m k n = none ↔ ∃ i, i < n ∧ readByte m (k + i) = none := by
  induction n generalizing k with
  | zero => simp [readBytes]
  | succ n ih =>
    have hsplit : (∃ i, i < n + 1 ∧ readByte m (k + i) = none) ↔
        readByte m k = none ∨ ∃ i, i < n ∧ readByte m (k + 1 + i) = none := by
      constructor
      · rintro ⟨i, hi, h⟩
        cases i with
        | zero => exact .inl h
        | succ i => exact .inr ⟨i, by omega, by rwa [Nat.add_assoc, Nat.add_comm 1]⟩
      · rintro (h | ⟨i, hi, h⟩)
        · exact ⟨0, by omega, h⟩
        · exact ⟨i + 1, by omega, by rwa [Nat.add_assoc, Nat.add_comm 1] at h⟩
    rw [hsplit, ← ih (k + 1)]
    cases h1 : readByte m k <;> cases h2 : readBytes m (k + 1) n <;> simp [readBytes, h1, h2]

/-- A one-byte range read is a byte read. -/
theorem readBytes_one (m : Buf) (k : Nat) : readBytes m k 1 = (readByte m k).map fun b => [b] := by
  cases h : readByte m k <;> simp [readBytes, h]

/-- A byte read after a range write. -/
theorem readByte_writeBytes (m : Buf) (k : Nat) (v : List Byte) (j : Nat) :
    readByte (writeBytes m k v) j = if k ≤ j ∧ j < k + v.length then v[j - k]? else readByte m j := by
  induction v generalizing m k with
  | nil => simp only [writeBytes, List.length_nil]; rw [if_neg (by omega)]
  | cons b v ih =>
    simp only [writeBytes, ih, List.length_cons, readByte_writeByte]
    by_cases h1 : k + 1 ≤ j ∧ j < k + 1 + v.length
    · rw [if_pos h1, if_pos (by omega), show j - k = (j - (k + 1)) + 1 by omega, List.getElem?_cons_succ]
    · rw [if_neg h1]
      by_cases h2 : k = j
      · subst h2; simp
      · rw [if_neg h2, if_neg (by omega)]

/-- A range write leaves every byte outside its range as it was. -/
theorem readByte_writeBytes_outside {m : Buf} {k : Nat} {v : List Byte} {j : Nat}
    (h : j < k ∨ k + v.length ≤ j) : readByte (writeBytes m k v) j = readByte m j := by
  rw [readByte_writeBytes, if_neg (by omega)]

/-- A range write is read back inside its range. -/
theorem readByte_writeBytes_inside {m : Buf} {k : Nat} {v : List Byte} {i : Nat} (h : i < v.length) :
    readByte (writeBytes m k v) (k + i) = some v[i] := by
  rw [readByte_writeBytes, if_pos (by omega), Nat.add_sub_cancel_left, List.getElem?_eq_getElem h]

/-- Reading a sub-range of what a range write wrote. -/
theorem readBytes_writeBytes_inside (m : Buf) (k : Nat) (v : List Byte) (i n : Nat) (h : i + n ≤ v.length) :
    readBytes (writeBytes m k v) (k + i) n = some ((v.drop i).take n) := by
  refine (readBytes_eq_some _ _ _ _).2 ⟨by simp; omega, fun j hj => ?_⟩
  have hj' : j < n := by simp at hj; omega
  rw [Nat.add_assoc, readByte_writeBytes_inside (by omega)]
  simp

/-- Reading back exactly what was written. -/
theorem readBytes_writeBytes_same (m : Buf) (k : Nat) (v : List Byte) :
    readBytes (writeBytes m k v) k v.length = some v := by
  simpa using readBytes_writeBytes_inside m k v 0 v.length (by omega)

/-- A range read depends on the bytes of its range alone. -/
theorem readBytes_congr {m m' : Buf} {k n : Nat} (h : ∀ i, i < n → readByte m' (k + i) = readByte m (k + i)) :
    readBytes m' k n = readBytes m k n := by
  induction n generalizing k with
  | zero => rfl
  | succ n ih =>
    have h0 := h 0 (by omega)
    have hs := ih (k := k + 1) fun i hi => by
      simpa [Nat.add_assoc, Nat.add_comm 1] using h (i + 1) (by omega)
    simp only [Nat.add_zero] at h0
    simp [readBytes, h0, hs]

/-! ### The canonical form -/

theorem risingFrom_mono {lo lo' : Nat} (h : lo' ≤ lo) (m : Buf) (hm : risingFrom lo m = true) :
    risingFrom lo' m = true := by
  cases m with
  | nil => rfl
  | cons c m =>
    obtain ⟨a, b⟩ := c
    simp only [risingFrom, Bool.and_eq_true, decide_eq_true_eq] at hm ⊢
    exact ⟨by omega, hm.2⟩

theorem risingFrom_writeByte {lo k : Nat} (h : lo ≤ k) (v : Byte) (m : Buf) (hm : risingFrom lo m = true) :
    risingFrom lo (writeByte m k v) = true := by
  induction m generalizing lo with
  | nil => simp [writeByte, risingFrom, h]
  | cons c m ih =>
    obtain ⟨a, b⟩ := c
    simp only [risingFrom, Bool.and_eq_true, decide_eq_true_eq] at hm
    simp only [writeByte]
    split
    · simp only [risingFrom, Bool.and_eq_true, decide_eq_true_eq]; exact ⟨h, by omega, hm.2⟩
    · split
      · rename_i h2; subst h2
        simp only [risingFrom, Bool.and_eq_true, decide_eq_true_eq]; exact hm
      · simp only [risingFrom, Bool.and_eq_true, decide_eq_true_eq]
        exact ⟨hm.1, ih (by omega) hm.2⟩

theorem all_writeByte {p : Nat → Bool} {k : Nat} (hk : p k = true) (v : Byte) (m : Buf)
    (hm : (m.all fun c => p c.1) = true) : ((writeByte m k v).all fun c => p c.1) = true := by
  induction m with
  | nil => simp [writeByte, hk]
  | cons c m ih =>
    obtain ⟨a, b⟩ := c
    simp only [List.all_cons, Bool.and_eq_true] at hm
    simp only [writeByte]
    split
    · simp [hk, hm.1, hm.2]
    · split
      · simp [hk, hm.2]
      · simp [hm.1, ih hm.2]

/-- A byte write inside the buffer keeps the canonical form. -/
theorem wf_writeByte {m : Buf} {k : Nat} (hk : k < Config.bufSize) (v : Byte) (hm : Memory.wf m = true) :
    Memory.wf (writeByte m k v) = true := by
  simp only [Memory.wf, Bool.and_eq_true] at hm ⊢
  exact ⟨risingFrom_writeByte (Nat.zero_le k) v m hm.1,
    all_writeByte (p := fun k => decide (k < Config.bufSize)) (by simpa using hk) v m hm.2⟩

/-- A range write inside the buffer keeps the canonical form. -/
theorem wf_writeBytes {m : Buf} {k : Nat} {v : List Byte} (hk : k + v.length ≤ Config.bufSize)
    (hm : Memory.wf m = true) : Memory.wf (writeBytes m k v) = true := by
  induction v generalizing m k with
  | nil => exact hm
  | cons b v ih =>
    simp only [List.length_cons] at hk
    exact ih (by omega) (wf_writeByte (by omega) b hm)

/-- The reset buffer has the canonical form. -/
theorem wf_reset : Memory.wf State.reset.buf = true := rfl

theorem readByte_below {lo : Nat} (m : Buf) (hm : risingFrom lo m = true) (j : Nat) (hj : j < lo) :
    readByte m j = none := by
  induction m generalizing lo with
  | nil => rfl
  | cons c m ih =>
    obtain ⟨a, b⟩ := c
    simp only [risingFrom, Bool.and_eq_true, decide_eq_true_eq] at hm
    rw [readByte, if_neg (by omega)]
    exact ih hm.2 (by omega)

theorem eq_of_readByte_rising {lo : Nat} (m m' : Buf) (hm : risingFrom lo m = true) (hm' : risingFrom lo m' = true)
    (h : ∀ k, readByte m k = readByte m' k) : m = m' := by
  induction m generalizing lo m' with
  | nil =>
    cases m' with
    | nil => rfl
    | cons c m' => obtain ⟨a, b⟩ := c; simpa [readByte] using h a
  | cons c m ih =>
    obtain ⟨a, b⟩ := c
    cases m' with
    | nil => simpa [readByte] using h a
    | cons c' m' =>
      obtain ⟨a', b'⟩ := c'
      simp only [risingFrom, Bool.and_eq_true, decide_eq_true_eq] at hm hm'
      have haa : a = a' := by
        by_contra hne
        rcases Nat.lt_or_gt_of_ne hne with hlt | hlt
        · have hk := h a
          rw [readByte, if_pos rfl, readByte, if_neg (by omega), readByte_below m' hm'.2 a (by omega)] at hk
          cases hk
        · have hk := h a'
          rw [readByte, if_neg (by omega), readByte_below m hm.2 a' (by omega), readByte, if_pos rfl] at hk
          cases hk
      subst haa
      have hb : b = b' := by simpa [readByte] using h a
      subst hb
      refine congrArg _ (ih m' hm.2 hm'.2 fun k => ?_)
      by_cases hk : a = k
      · subst hk; rw [readByte_below m hm.2 _ (by omega), readByte_below m' hm'.2 _ (by omega)]
      · simpa [readByte, hk] using h k

/-- Equal memories are equal data: two buffers in canonical form that read alike are the same list. -/
theorem eq_of_readByte {m m' : Buf} (hm : Memory.wf m = true) (hm' : Memory.wf m' = true)
    (h : ∀ k, readByte m k = readByte m' k) : m = m' := by
  simp only [Memory.wf, Bool.and_eq_true] at hm hm'
  exact eq_of_readByte_rising m m' hm.1 hm'.1 h

end Sys2Proof.Machine
end

