-- ==== Sys2Proof/Laws/Bytes.lean ====
section
/-! SUPPORT. Lengths and inverses of the byte-sequence functions, of the MIC and of the payload cipher. -/

namespace Sys2Proof.Machine

/-! ### Little-endian sequences (R20) -/

@[simp] theorem length_le32 (v : Word) : (le32 v).length = 4 := rfl
@[simp] theorem length_le16 (v : BitVec 16) : (le16 v).length = 2 := rfl

/-- fromLE undoes LE32. -/
@[simp] theorem wordOfLE_le32 (v : Word) : wordOfLE (le32 v) = v := by
  apply BitVec.eq_of_toNat_eq
  simp only [wordOfLE, le32, fromLE, BitVec.toNat_ofNat, BitVec.extractLsb'_toNat, Nat.shiftRight_eq_div_pow]
  have := v.isLt
  omega

/-- LE32 undoes fromLE on four bytes. -/
theorem le32_wordOfLE {b : List Byte} (h : b.length = 4) : le32 (wordOfLE b) = b := by
  match b, h with
  | [b0, b1, b2, b3], _ =>
    have h0 := b0.isLt
    have h1 := b1.isLt
    have h2 := b2.isLt
    have h3 := b3.isLt
    have hw : (wordOfLE [b0, b1, b2, b3]).toNat =
        b0.toNat + 256 * (b1.toNat + 256 * (b2.toNat + 256 * b3.toNat)) := by
      simp only [wordOfLE, fromLE, BitVec.toNat_ofNat]
      omega
    simp only [le32]
    refine congrArg₂ _ ?_ (congrArg₂ _ ?_ (congrArg₂ _ ?_ (congrArg₂ _ ?_ rfl))) <;>
    · apply BitVec.eq_of_toNat_eq
      simp only [BitVec.extractLsb'_toNat, hw, Nat.shiftRight_eq_div_pow]
      omega

/-- Two four-byte sequences are equal exactly when their register values are. -/
theorem wordOfLE_inj {a : List Byte} (ha : a.length = 4) (v : Word) : a = le32 v ↔ wordOfLE a = v := by
  constructor
  · rintro rfl; simp
  · rintro rfl; exact (le32_wordOfLE ha).symm

/-- fromLE is below 256^len. -/
theorem fromLE_lt (b : List Byte) : fromLE b < 256 ^ b.length := by
  induction b with
  | nil => simp [fromLE]
  | cons x b ih =>
    have := x.isLt
    simp only [fromLE, List.length_cons, Nat.pow_succ]
    omega

/-- Four-byte sequences are equal to a register value exactly when their numbers are. -/
theorem wordOfLE_eq_iff {b : List Byte} (h : b.length = 4) (w : Word) : wordOfLE b = w ↔ fromLE b = w.toNat := by
  have := fromLE_lt b
  rw [h] at this
  rw [← BitVec.toNat_inj, wordOfLE, BitVec.toNat_ofNat, Nat.mod_eq_of_lt (by omega)]

/-- The 16-bit FCnt field, zero-extended (R215, R230). -/
theorem fcntOf_setWidth {b : List Byte} (h : b.length = 2) : (fcntOf b).setWidth 32 = BitVec.ofNat 32 (fromLE b) := by
  have := fromLE_lt b
  rw [h] at this
  apply BitVec.eq_of_toNat_eq
  simp only [fcntOf, BitVec.toNat_setWidth, BitVec.toNat_ofNat]
  omega

/-! ### Placed fields -/

/-- The value of a placed field that fits. -/
theorem toNat_place {w n : Nat} (x : BitVec n) (k : Nat) (h : n + k ≤ w) : (place w x k).toNat = x.toNat * 2 ^ k := by
  have hx : x.toNat * 2 ^ k < 2 ^ w := calc
    x.toNat * 2 ^ k < 2 ^ n * 2 ^ k := Nat.mul_lt_mul_of_pos_right x.isLt (by positivity)
    _ = 2 ^ (n + k) := (Nat.pow_add ..).symm
    _ ≤ 2 ^ w := Nat.pow_le_pow_right (by omega) h
  rw [place, BitVec.toNat_shiftLeft, BitVec.toNat_setWidth, Nat.shiftLeft_eq,
    Nat.mod_eq_of_lt (a := x.toNat) (lt_of_le_of_lt (Nat.le_mul_of_pos_right _ (by positivity)) hx), Nat.mod_eq_of_lt hx]

/-- A field above `k` bits, OR a value of at most `k` bits, is their sum. -/
theorem mul_two_pow_or {a b k : Nat} (h : b < 2 ^ k) : a * 2 ^ k ||| b = a * 2 ^ k + b := by
  rw [Nat.mul_comm, ← Nat.two_pow_add_eq_or_of_lt h]

/-! ### xor (R19) -/

@[simp] theorem length_xorBytes (a b : List Byte) : (xorBytes a b).length = min a.length b.length := by
  simp [xorBytes]

/-- XOR with the same sequence twice is the identity. -/
theorem xorBytes_xorBytes (a b : List Byte) (h : a.length ≤ b.length) : xorBytes (xorBytes a b) b = a := by
  induction a generalizing b with
  | nil => rfl
  | cons x a ih =>
    cases b with
    | nil => simp at h
    | cons y b =>
      have := ih b (by simpa using h)
      simp only [xorBytes, List.zipWith_cons_cons] at this ⊢
      rw [this, BitVec.xor_assoc, BitVec.xor_self, BitVec.xor_zero]

/-! ### Blocks (R140) -/

@[simp] theorem length_blockBytes (x : Block) : (blockBytes x).length = 16 := by simp [blockBytes]

/-- Byte `i` of a block as a list. -/
theorem blockBytes_getElem (x : Block) (i : Nat) (h : i < (blockBytes x).length) :
    (blockBytes x)[i] = blockByte x i := by
  simp [blockBytes]

@[simp] theorem length_b0 (d : Dir) (a f : Word) (n : Nat) : (b0 d a f n).length = 16 := by simp [b0]
@[simp] theorem length_aBlock (d : Dir) (a f : Word) (i : Nat) : (aBlock d a f i).length = 16 := by simp [aBlock]

/-! ### The MIC (R150) -/

/-- A MIC has 4 bytes. -/
@[simp] theorem length_mic4 (k : Block) (d : Dir) (a f : Word) (data : List Byte) : (mic4 k d a f data).length = 4 := by
  simp [mic4, Config.micBytes]

/-! ### The keystream and the cipher (R153 to R156) -/

@[simp] theorem length_keystreamBlock (k : Block) (d : Dir) (a f : Word) (i : Nat) :
    (keystreamBlock k d a f i).length = 16 := by
  simp [keystreamBlock]

theorem length_flatMap_16 {α : Type} (g : Nat → List α) (h : ∀ i, (g i).length = 16) (l : List Nat) :
    (l.flatMap g).length = 16 * l.length := by
  induction l with
  | nil => rfl
  | cons x l ih => simp [h, ih, Nat.mul_add, Nat.add_comm]

/-- The keystream has the length asked for. -/
@[simp] theorem length_keystream (k : Block) (d : Dir) (a f : Word) (n : Nat) :
    (keystream k d a f n).length = n := by
  simp only [keystream, List.length_take, length_flatMap_16 _ (length_keystreamBlock k d a f), List.length_range]
  omega

/-- A byte of the concatenation of 16-byte blocks. -/
theorem getElem?_flatMap_16 {α : Type} (g : Nat → List α) (h : ∀ i, (g i).length = 16) {m j : Nat} (hj : j < 16 * m) :
    ((List.range m).flatMap g)[j]? = (g (j / 16))[j % 16]? := by
  induction m with
  | zero => omega
  | succ m ih =>
    have hlen : ((List.range m).flatMap g).length = 16 * m := by rw [length_flatMap_16 g h, List.length_range]
    rw [List.range_succ, List.flatMap_append]
    by_cases hm : j < 16 * m
    · rw [List.getElem?_append_left (by omega), ih hm]
    · have h1 : j / 16 = m := by omega
      have h2 : j - 16 * m = j % 16 := by omega
      rw [List.getElem?_append_right (by omega), hlen, h1, h2]
      simp

/-- Crypt keeps the length (R156). -/
@[simp] theorem length_cryptBytes (k : Block) (d : Dir) (a f : Word) (data : List Byte) :
    (cryptBytes k d a f data).length = data.length := by
  simp [cryptBytes]

end Sys2Proof.Machine
end

