-- ==== Sys2Proof/Laws/Decode.lean ====
section
/-! SUPPORT. The fields of a packed command word, and everything the decoder can answer. -/

namespace Sys2Proof

variable (mtype : BitVec 3) (len off : Byte) (dir : BitVec 1) (ksel : BitVec 2) (op : BitVec 4)

/-! ### Each field of `pack` reads back (R110) -/

@[simp] theorem opField_pack : opField (pack mtype len off dir ksel op) = op := by
  apply BitVec.eq_of_getLsbD_eq
  intro i hi
  interval_cases i <;> simp [pack, place, opField]

@[simp] theorem kselField_pack : kselField (pack mtype len off dir ksel op) = ksel := by
  apply BitVec.eq_of_getLsbD_eq
  intro i hi
  interval_cases i <;> simp [pack, place, kselField]

@[simp] theorem dirField_pack : dirField (pack mtype len off dir ksel op) = dir := by
  apply BitVec.eq_of_getLsbD_eq
  intro i hi
  interval_cases i
  simp [pack, place, dirField]

@[simp] theorem offField_pack : offField (pack mtype len off dir ksel op) = off := by
  apply BitVec.eq_of_getLsbD_eq
  intro i hi
  interval_cases i <;> simp [pack, place, offField]

@[simp] theorem lenField_pack : lenField (pack mtype len off dir ksel op) = len := by
  apply BitVec.eq_of_getLsbD_eq
  intro i hi
  interval_cases i <;> simp [pack, place, lenField]

@[simp] theorem mtypeField_pack : mtypeField (pack mtype len off dir ksel op) = mtype := by
  apply BitVec.eq_of_getLsbD_eq
  intro i hi
  interval_cases i <;> simp [pack, place, mtypeField]

@[simp] theorem reservedClear_pack : reservedClear (pack mtype len off dir ksel op) = true := by
  simp only [reservedClear, Bool.and_eq_true, beq_iff_eq]
  constructor <;>
  · apply BitVec.eq_of_getLsbD_eq
    intro i hi
    interval_cases i <;> simp [pack, place]

/-! ### The numbers of the names -/

@[simp] theorem KSel.ofBits_num (k : KSel) : KSel.ofBits k.num = k := by
  cases k with
  | slot k => cases k <;> rfl
  | noSlot => rfl
@[simp] theorem Dir.ofBits_num (d : Dir) : Dir.ofBits d.num = d := by cases d <;> rfl
@[simp] theorem MType.ofBits_num (m : MType) : MType.ofBits m.num = m := by cases m <;> rfl
@[simp] theorem KSel.num_ofBits (b : BitVec 2) : (KSel.ofBits b).num = b := by revert b; decide
@[simp] theorem Dir.num_ofBits (b : BitVec 1) : (Dir.ofBits b).num = b := by revert b; decide
@[simp] theorem MType.num_ofBits (b : BitVec 3) : (MType.ofBits b).num = b := by revert b; decide

/-! ### The decoder -/

/-- Where `accept` gives a command its must-be-0 fields are 0. -/
theorem accept_ok {clear : Bool} {i j : Instr} : accept clear i = .ok j ↔ clear = true ∧ j = i := by
  unfold accept
  cases clear <;> simp [eq_comm]

/-- Everything the decoder can give: the row OP selects, with the row's must-be-0 fields 0 (R118, R119). -/
theorem decode_ok {w : Word} {i : Instr} (h : decode w = .ok i) : reservedClear w = true ∧
    ((opField w = 1 ∧ mtypeField w = 0 ∧ i = primitiveOf .mic w) ∨
      (opField w = 2 ∧ mtypeField w = 0 ∧ i = primitiveOf .verify w) ∨
      (opField w = 3 ∧ mtypeField w = 0 ∧ i = primitiveOf .crypt w) ∨
      (opField w = 4 ∧ kselField w = 0 ∧ dirField w = 0 ∧
        i = .build (offField w) (lenField w) (.ofBits (mtypeField w))) ∨
      (kselField w = 0 ∧ dirField w = 0 ∧ offField w = 0 ∧ mtypeField w = 0 ∧
        ((opField w = 5 ∧ i = .validate (lenField w)) ∨ (opField w = 6 ∧ i = .parse (lenField w)) ∨
          (opField w = 7 ∧ i = .admitFrame (lenField w))))) := by
  have op_eq : ∀ n : Nat, n < 16 → (opField w).toNat = n → opField w = BitVec.ofNat 4 n := fun n hn h =>
    BitVec.eq_of_toNat_eq (by simp [h]; omega)
  unfold decode at h
  split at h
  · cases h
  · rename_i hr
    refine ⟨by simpa using hr, ?_⟩
    split at h
    all_goals first
      | cases h
      | (rename_i ho
         have ho' := op_eq _ (by omega) ho
         obtain ⟨hc, rfl⟩ := accept_ok.1 h
         simp only [primitiveFieldsClear, buildFieldsClear, frameFieldsClear, Bool.and_eq_true, beq_iff_eq] at hc
         simp [ho', hc])

end Sys2Proof
end

