-- ==== Sys2Proof/Laws/State.lean ====
section
/-! SUPPORT. One lemma for each field of each named update of the state, true by rfl (or by cases on the update's one
choice), so that no later proof unfolds a record update. -/

namespace Sys2Proof.Machine

variable (s t : State)

/-! ### The end of a command -/

@[simp] theorem State.finish_en (c : CmdCode) : (s.finish c).en = s.en := rfl
@[simp] theorem State.finish_ie (c : CmdCode) : (s.finish c).ie = s.ie := rfl
@[simp] theorem State.finish_done (c : CmdCode) : (s.finish c).done = true := rfl
@[simp] theorem State.finish_cfgerr (c : CmdCode) : (s.finish c).cfgerr = s.cfgerr := rfl
@[simp] theorem State.finish_werr (c : CmdCode) : (s.finish c).werr = s.werr := rfl
@[simp] theorem State.finish_errcode (c : CmdCode) : (s.finish c).errcode = c.num := rfl
@[simp] theorem State.finish_cmd (c : CmdCode) : (s.finish c).cmd = s.cmd := rfl
@[simp] theorem State.finish_pending (c : CmdCode) : (s.finish c).pending = none := rfl
@[simp] theorem State.finish_awaitAck (c : CmdCode) : (s.finish c).awaitAck = s.awaitAck := rfl
@[simp] theorem State.finish_ackPending (c : CmdCode) : (s.finish c).ackPending = s.ackPending := rfl
@[simp] theorem State.finish_devaddr (c : CmdCode) : (s.finish c).devaddr = s.devaddr := rfl
@[simp] theorem State.finish_fcntUp (c : CmdCode) : (s.finish c).fcntUp = s.fcntUp := rfl
@[simp] theorem State.finish_fcntDown (c : CmdCode) : (s.finish c).fcntDown = s.fcntDown := rfl
@[simp] theorem State.finish_fport (c : CmdCode) : (s.finish c).fport = s.fport := rfl
@[simp] theorem State.finish_opDevaddr (c : CmdCode) : (s.finish c).opDevaddr = s.opDevaddr := rfl
@[simp] theorem State.finish_opFcnt (c : CmdCode) : (s.finish c).opFcnt = s.opFcnt := rfl
@[simp] theorem State.finish_mic (c : CmdCode) : (s.finish c).mic = s.mic := rfl
@[simp] theorem State.finish_micIn (c : CmdCode) : (s.finish c).micIn = s.micIn := rfl
@[simp] theorem State.finish_resultOk (c : CmdCode) : (s.finish c).resultOk = s.resultOk := rfl
@[simp] theorem State.finish_resultReason (c : CmdCode) : (s.finish c).resultReason = s.resultReason := rfl
@[simp] theorem State.finish_flen (c : CmdCode) : (s.finish c).flen = s.flen := rfl
@[simp] theorem State.finish_rxHdr (c : CmdCode) : (s.finish c).rxHdr = s.rxHdr := rfl
@[simp] theorem State.finish_rxDevaddr (c : CmdCode) : (s.finish c).rxDevaddr = s.rxDevaddr := rfl
@[simp] theorem State.finish_rxLayout (c : CmdCode) : (s.finish c).rxLayout = s.rxLayout := rfl
@[simp] theorem State.finish_nwkSKey (c : CmdCode) : (s.finish c).nwkSKey = s.nwkSKey := rfl
@[simp] theorem State.finish_appSKey (c : CmdCode) : (s.finish c).appSKey = s.appSKey := rfl
@[simp] theorem State.finish_appKey (c : CmdCode) : (s.finish c).appKey = s.appKey := rfl
@[simp] theorem State.finish_buf (c : CmdCode) : (s.finish c).buf = s.buf := rfl
@[simp] theorem State.finish_moves (c : CmdCode) : (s.finish c).moves = s.moves := rfl
@[simp] theorem State.finish_draws (c : CmdCode) : (s.finish c).draws = s.draws := rfl
@[simp] theorem State.finish_reply (c : CmdCode) : (s.finish c).reply = s.reply := rfl

/-! ### A launch -/

@[simp] theorem State.launch_en (w : Word) : (s.launch w).en = s.en := rfl
@[simp] theorem State.launch_ie (w : Word) : (s.launch w).ie = s.ie := rfl
@[simp] theorem State.launch_done (w : Word) : (s.launch w).done = false := rfl
@[simp] theorem State.launch_cfgerr (w : Word) : (s.launch w).cfgerr = s.cfgerr := rfl
@[simp] theorem State.launch_werr (w : Word) : (s.launch w).werr = s.werr := rfl
@[simp] theorem State.launch_errcode (w : Word) : (s.launch w).errcode = 0 := rfl
@[simp] theorem State.launch_cmd (w : Word) : (s.launch w).cmd = w := rfl
@[simp] theorem State.launch_pending (w : Word) : (s.launch w).pending = some w := rfl
@[simp] theorem State.launch_awaitAck (w : Word) : (s.launch w).awaitAck = s.awaitAck := rfl
@[simp] theorem State.launch_ackPending (w : Word) : (s.launch w).ackPending = s.ackPending := rfl
@[simp] theorem State.launch_devaddr (w : Word) : (s.launch w).devaddr = s.devaddr := rfl
@[simp] theorem State.launch_fcntUp (w : Word) : (s.launch w).fcntUp = s.fcntUp := rfl
@[simp] theorem State.launch_fcntDown (w : Word) : (s.launch w).fcntDown = s.fcntDown := rfl
@[simp] theorem State.launch_fport (w : Word) : (s.launch w).fport = s.fport := rfl
@[simp] theorem State.launch_opDevaddr (w : Word) : (s.launch w).opDevaddr = s.opDevaddr := rfl
@[simp] theorem State.launch_opFcnt (w : Word) : (s.launch w).opFcnt = s.opFcnt := rfl
@[simp] theorem State.launch_mic (w : Word) : (s.launch w).mic = s.mic := rfl
@[simp] theorem State.launch_micIn (w : Word) : (s.launch w).micIn = s.micIn := rfl
@[simp] theorem State.launch_resultOk (w : Word) : (s.launch w).resultOk = s.resultOk := rfl
@[simp] theorem State.launch_resultReason (w : Word) : (s.launch w).resultReason = s.resultReason := rfl
@[simp] theorem State.launch_flen (w : Word) : (s.launch w).flen = s.flen := rfl
@[simp] theorem State.launch_rxHdr (w : Word) : (s.launch w).rxHdr = s.rxHdr := rfl
@[simp] theorem State.launch_rxDevaddr (w : Word) : (s.launch w).rxDevaddr = s.rxDevaddr := rfl
@[simp] theorem State.launch_rxLayout (w : Word) : (s.launch w).rxLayout = s.rxLayout := rfl
@[simp] theorem State.launch_nwkSKey (w : Word) : (s.launch w).nwkSKey = s.nwkSKey := rfl
@[simp] theorem State.launch_appSKey (w : Word) : (s.launch w).appSKey = s.appSKey := rfl
@[simp] theorem State.launch_appKey (w : Word) : (s.launch w).appKey = s.appKey := rfl
@[simp] theorem State.launch_buf (w : Word) : (s.launch w).buf = s.buf := rfl
@[simp] theorem State.launch_moves (w : Word) : (s.launch w).moves = s.moves := rfl
@[simp] theorem State.launch_draws (w : Word) : (s.launch w).draws = s.draws := rfl
@[simp] theorem State.launch_reply (w : Word) : (s.launch w).reply = s.reply := rfl

/-! ### MemWrite -/

@[simp] theorem State.memWrite_en (k : Nat) (v : List Byte) : (s.memWrite k v).en = s.en := rfl
@[simp] theorem State.memWrite_ie (k : Nat) (v : List Byte) : (s.memWrite k v).ie = s.ie := rfl
@[simp] theorem State.memWrite_done (k : Nat) (v : List Byte) : (s.memWrite k v).done = s.done := rfl
@[simp] theorem State.memWrite_cfgerr (k : Nat) (v : List Byte) : (s.memWrite k v).cfgerr = s.cfgerr := rfl
@[simp] theorem State.memWrite_werr (k : Nat) (v : List Byte) : (s.memWrite k v).werr = s.werr := rfl
@[simp] theorem State.memWrite_errcode (k : Nat) (v : List Byte) : (s.memWrite k v).errcode = s.errcode := rfl
@[simp] theorem State.memWrite_cmd (k : Nat) (v : List Byte) : (s.memWrite k v).cmd = s.cmd := rfl
@[simp] theorem State.memWrite_pending (k : Nat) (v : List Byte) : (s.memWrite k v).pending = s.pending := rfl
@[simp] theorem State.memWrite_awaitAck (k : Nat) (v : List Byte) : (s.memWrite k v).awaitAck = s.awaitAck := rfl
@[simp] theorem State.memWrite_ackPending (k : Nat) (v : List Byte) : (s.memWrite k v).ackPending = s.ackPending := rfl
@[simp] theorem State.memWrite_devaddr (k : Nat) (v : List Byte) : (s.memWrite k v).devaddr = s.devaddr := rfl
@[simp] theorem State.memWrite_fcntUp (k : Nat) (v : List Byte) : (s.memWrite k v).fcntUp = s.fcntUp := rfl
@[simp] theorem State.memWrite_fcntDown (k : Nat) (v : List Byte) : (s.memWrite k v).fcntDown = s.fcntDown := rfl
@[simp] theorem State.memWrite_fport (k : Nat) (v : List Byte) : (s.memWrite k v).fport = s.fport := rfl
@[simp] theorem State.memWrite_opDevaddr (k : Nat) (v : List Byte) : (s.memWrite k v).opDevaddr = s.opDevaddr := rfl
@[simp] theorem State.memWrite_opFcnt (k : Nat) (v : List Byte) : (s.memWrite k v).opFcnt = s.opFcnt := rfl
@[simp] theorem State.memWrite_mic (k : Nat) (v : List Byte) : (s.memWrite k v).mic = s.mic := rfl
@[simp] theorem State.memWrite_micIn (k : Nat) (v : List Byte) : (s.memWrite k v).micIn = s.micIn := rfl
@[simp] theorem State.memWrite_resultOk (k : Nat) (v : List Byte) : (s.memWrite k v).resultOk = s.resultOk := rfl
@[simp] theorem State.memWrite_resultReason (k : Nat) (v : List Byte) : (s.memWrite k v).resultReason = s.resultReason := rfl
@[simp] theorem State.memWrite_flen (k : Nat) (v : List Byte) : (s.memWrite k v).flen = s.flen := rfl
@[simp] theorem State.memWrite_rxHdr (k : Nat) (v : List Byte) : (s.memWrite k v).rxHdr = s.rxHdr := rfl
@[simp] theorem State.memWrite_rxDevaddr (k : Nat) (v : List Byte) : (s.memWrite k v).rxDevaddr = s.rxDevaddr := rfl
@[simp] theorem State.memWrite_rxLayout (k : Nat) (v : List Byte) : (s.memWrite k v).rxLayout = s.rxLayout := rfl
@[simp] theorem State.memWrite_nwkSKey (k : Nat) (v : List Byte) : (s.memWrite k v).nwkSKey = s.nwkSKey := rfl
@[simp] theorem State.memWrite_appSKey (k : Nat) (v : List Byte) : (s.memWrite k v).appSKey = s.appSKey := rfl
@[simp] theorem State.memWrite_appKey (k : Nat) (v : List Byte) : (s.memWrite k v).appKey = s.appKey := rfl
@[simp] theorem State.memWrite_buf (k : Nat) (v : List Byte) : (s.memWrite k v).buf = writeBytes s.buf k v := rfl
@[simp] theorem State.memWrite_moves (k : Nat) (v : List Byte) : (s.memWrite k v).moves = s.moves := rfl
@[simp] theorem State.memWrite_draws (k : Nat) (v : List Byte) : (s.memWrite k v).draws = s.draws := rfl
@[simp] theorem State.memWrite_reply (k : Nat) (v : List Byte) : (s.memWrite k v).reply = s.reply := rfl

/-! ### RESULT -/

@[simp] theorem State.setResult_en (ok : Bool) (r : BitVec 3) : (s.setResult ok r).en = s.en := rfl
@[simp] theorem State.setResult_ie (ok : Bool) (r : BitVec 3) : (s.setResult ok r).ie = s.ie := rfl
@[simp] theorem State.setResult_done (ok : Bool) (r : BitVec 3) : (s.setResult ok r).done = s.done := rfl
@[simp] theorem State.setResult_cfgerr (ok : Bool) (r : BitVec 3) : (s.setResult ok r).cfgerr = s.cfgerr := rfl
@[simp] theorem State.setResult_werr (ok : Bool) (r : BitVec 3) : (s.setResult ok r).werr = s.werr := rfl
@[simp] theorem State.setResult_errcode (ok : Bool) (r : BitVec 3) : (s.setResult ok r).errcode = s.errcode := rfl
@[simp] theorem State.setResult_cmd (ok : Bool) (r : BitVec 3) : (s.setResult ok r).cmd = s.cmd := rfl
@[simp] theorem State.setResult_pending (ok : Bool) (r : BitVec 3) : (s.setResult ok r).pending = s.pending := rfl
@[simp] theorem State.setResult_awaitAck (ok : Bool) (r : BitVec 3) : (s.setResult ok r).awaitAck = s.awaitAck := rfl
@[simp] theorem State.setResult_ackPending (ok : Bool) (r : BitVec 3) : (s.setResult ok r).ackPending = s.ackPending := rfl
@[simp] theorem State.setResult_devaddr (ok : Bool) (r : BitVec 3) : (s.setResult ok r).devaddr = s.devaddr := rfl
@[simp] theorem State.setResult_fcntUp (ok : Bool) (r : BitVec 3) : (s.setResult ok r).fcntUp = s.fcntUp := rfl
@[simp] theorem State.setResult_fcntDown (ok : Bool) (r : BitVec 3) : (s.setResult ok r).fcntDown = s.fcntDown := rfl
@[simp] theorem State.setResult_fport (ok : Bool) (r : BitVec 3) : (s.setResult ok r).fport = s.fport := rfl
@[simp] theorem State.setResult_opDevaddr (ok : Bool) (r : BitVec 3) : (s.setResult ok r).opDevaddr = s.opDevaddr := rfl
@[simp] theorem State.setResult_opFcnt (ok : Bool) (r : BitVec 3) : (s.setResult ok r).opFcnt = s.opFcnt := rfl
@[simp] theorem State.setResult_mic (ok : Bool) (r : BitVec 3) : (s.setResult ok r).mic = s.mic := rfl
@[simp] theorem State.setResult_micIn (ok : Bool) (r : BitVec 3) : (s.setResult ok r).micIn = s.micIn := rfl
@[simp] theorem State.setResult_resultOk (ok : Bool) (r : BitVec 3) : (s.setResult ok r).resultOk = ok := rfl
@[simp] theorem State.setResult_resultReason (ok : Bool) (r : BitVec 3) : (s.setResult ok r).resultReason = r := rfl
@[simp] theorem State.setResult_flen (ok : Bool) (r : BitVec 3) : (s.setResult ok r).flen = s.flen := rfl
@[simp] theorem State.setResult_rxHdr (ok : Bool) (r : BitVec 3) : (s.setResult ok r).rxHdr = s.rxHdr := rfl
@[simp] theorem State.setResult_rxDevaddr (ok : Bool) (r : BitVec 3) : (s.setResult ok r).rxDevaddr = s.rxDevaddr := rfl
@[simp] theorem State.setResult_rxLayout (ok : Bool) (r : BitVec 3) : (s.setResult ok r).rxLayout = s.rxLayout := rfl
@[simp] theorem State.setResult_nwkSKey (ok : Bool) (r : BitVec 3) : (s.setResult ok r).nwkSKey = s.nwkSKey := rfl
@[simp] theorem State.setResult_appSKey (ok : Bool) (r : BitVec 3) : (s.setResult ok r).appSKey = s.appSKey := rfl
@[simp] theorem State.setResult_appKey (ok : Bool) (r : BitVec 3) : (s.setResult ok r).appKey = s.appKey := rfl
@[simp] theorem State.setResult_buf (ok : Bool) (r : BitVec 3) : (s.setResult ok r).buf = s.buf := rfl
@[simp] theorem State.setResult_moves (ok : Bool) (r : BitVec 3) : (s.setResult ok r).moves = s.moves := rfl
@[simp] theorem State.setResult_draws (ok : Bool) (r : BitVec 3) : (s.setResult ok r).draws = s.draws := rfl
@[simp] theorem State.setResult_reply (ok : Bool) (r : BitVec 3) : (s.setResult ok r).reply = s.reply := rfl

/-! ### The header PARSE records -/

@[simp] theorem State.recordHeader_en (m : Byte) (a : Word) (c : Byte) (f : BitVec 16) : (s.recordHeader m a c f).en = s.en := rfl
@[simp] theorem State.recordHeader_ie (m : Byte) (a : Word) (c : Byte) (f : BitVec 16) : (s.recordHeader m a c f).ie = s.ie := rfl
@[simp] theorem State.recordHeader_done (m : Byte) (a : Word) (c : Byte) (f : BitVec 16) : (s.recordHeader m a c f).done = s.done := rfl
@[simp] theorem State.recordHeader_cfgerr (m : Byte) (a : Word) (c : Byte) (f : BitVec 16) : (s.recordHeader m a c f).cfgerr = s.cfgerr := rfl
@[simp] theorem State.recordHeader_werr (m : Byte) (a : Word) (c : Byte) (f : BitVec 16) : (s.recordHeader m a c f).werr = s.werr := rfl
@[simp] theorem State.recordHeader_errcode (m : Byte) (a : Word) (c : Byte) (f : BitVec 16) : (s.recordHeader m a c f).errcode = s.errcode := rfl
@[simp] theorem State.recordHeader_cmd (m : Byte) (a : Word) (c : Byte) (f : BitVec 16) : (s.recordHeader m a c f).cmd = s.cmd := rfl
@[simp] theorem State.recordHeader_pending (m : Byte) (a : Word) (c : Byte) (f : BitVec 16) : (s.recordHeader m a c f).pending = s.pending := rfl
@[simp] theorem State.recordHeader_awaitAck (m : Byte) (a : Word) (c : Byte) (f : BitVec 16) : (s.recordHeader m a c f).awaitAck = (s.awaitAck && !fctrlAck c) := rfl
@[simp] theorem State.recordHeader_ackPending (m : Byte) (a : Word) (c : Byte) (f : BitVec 16) : (s.recordHeader m a c f).ackPending = s.ackPending := rfl
@[simp] theorem State.recordHeader_devaddr (m : Byte) (a : Word) (c : Byte) (f : BitVec 16) : (s.recordHeader m a c f).devaddr = s.devaddr := rfl
@[simp] theorem State.recordHeader_fcntUp (m : Byte) (a : Word) (c : Byte) (f : BitVec 16) : (s.recordHeader m a c f).fcntUp = s.fcntUp := rfl
@[simp] theorem State.recordHeader_fcntDown (m : Byte) (a : Word) (c : Byte) (f : BitVec 16) : (s.recordHeader m a c f).fcntDown = s.fcntDown := rfl
@[simp] theorem State.recordHeader_fport (m : Byte) (a : Word) (c : Byte) (f : BitVec 16) : (s.recordHeader m a c f).fport = s.fport := rfl
@[simp] theorem State.recordHeader_opDevaddr (m : Byte) (a : Word) (c : Byte) (f : BitVec 16) : (s.recordHeader m a c f).opDevaddr = s.opDevaddr := rfl
@[simp] theorem State.recordHeader_opFcnt (m : Byte) (a : Word) (c : Byte) (f : BitVec 16) : (s.recordHeader m a c f).opFcnt = s.opFcnt := rfl
@[simp] theorem State.recordHeader_mic (m : Byte) (a : Word) (c : Byte) (f : BitVec 16) : (s.recordHeader m a c f).mic = s.mic := rfl
@[simp] theorem State.recordHeader_micIn (m : Byte) (a : Word) (c : Byte) (f : BitVec 16) : (s.recordHeader m a c f).micIn = s.micIn := rfl
@[simp] theorem State.recordHeader_resultOk (m : Byte) (a : Word) (c : Byte) (f : BitVec 16) : (s.recordHeader m a c f).resultOk = s.resultOk := rfl
@[simp] theorem State.recordHeader_resultReason (m : Byte) (a : Word) (c : Byte) (f : BitVec 16) : (s.recordHeader m a c f).resultReason = s.resultReason := rfl
@[simp] theorem State.recordHeader_flen (m : Byte) (a : Word) (c : Byte) (f : BitVec 16) : (s.recordHeader m a c f).flen = s.flen := rfl
@[simp] theorem State.recordHeader_rxHdr (m : Byte) (a : Word) (c : Byte) (f : BitVec 16) : (s.recordHeader m a c f).rxHdr = rxHdrWord m c f := rfl
@[simp] theorem State.recordHeader_rxDevaddr (m : Byte) (a : Word) (c : Byte) (f : BitVec 16) : (s.recordHeader m a c f).rxDevaddr = a := rfl
@[simp] theorem State.recordHeader_rxLayout (m : Byte) (a : Word) (c : Byte) (f : BitVec 16) : (s.recordHeader m a c f).rxLayout = s.rxLayout := rfl
@[simp] theorem State.recordHeader_nwkSKey (m : Byte) (a : Word) (c : Byte) (f : BitVec 16) : (s.recordHeader m a c f).nwkSKey = s.nwkSKey := rfl
@[simp] theorem State.recordHeader_appSKey (m : Byte) (a : Word) (c : Byte) (f : BitVec 16) : (s.recordHeader m a c f).appSKey = s.appSKey := rfl
@[simp] theorem State.recordHeader_appKey (m : Byte) (a : Word) (c : Byte) (f : BitVec 16) : (s.recordHeader m a c f).appKey = s.appKey := rfl
@[simp] theorem State.recordHeader_buf (m : Byte) (a : Word) (c : Byte) (f : BitVec 16) : (s.recordHeader m a c f).buf = s.buf := rfl
@[simp] theorem State.recordHeader_moves (m : Byte) (a : Word) (c : Byte) (f : BitVec 16) : (s.recordHeader m a c f).moves = s.moves := rfl
@[simp] theorem State.recordHeader_draws (m : Byte) (a : Word) (c : Byte) (f : BitVec 16) : (s.recordHeader m a c f).draws = s.draws := rfl
@[simp] theorem State.recordHeader_reply (m : Byte) (a : Word) (c : Byte) (f : BitVec 16) : (s.recordHeader m a c f).reply = s.reply := rfl

/-! ### The SESS flags after BUILD -/

@[simp] theorem State.sessAfterBuild_en (mt : MType) : (s.sessAfterBuild mt).en = s.en := rfl
@[simp] theorem State.sessAfterBuild_ie (mt : MType) : (s.sessAfterBuild mt).ie = s.ie := rfl
@[simp] theorem State.sessAfterBuild_done (mt : MType) : (s.sessAfterBuild mt).done = s.done := rfl
@[simp] theorem State.sessAfterBuild_cfgerr (mt : MType) : (s.sessAfterBuild mt).cfgerr = s.cfgerr := rfl
@[simp] theorem State.sessAfterBuild_werr (mt : MType) : (s.sessAfterBuild mt).werr = s.werr := rfl
@[simp] theorem State.sessAfterBuild_errcode (mt : MType) : (s.sessAfterBuild mt).errcode = s.errcode := rfl
@[simp] theorem State.sessAfterBuild_cmd (mt : MType) : (s.sessAfterBuild mt).cmd = s.cmd := rfl
@[simp] theorem State.sessAfterBuild_pending (mt : MType) : (s.sessAfterBuild mt).pending = s.pending := rfl
@[simp] theorem State.sessAfterBuild_awaitAck (mt : MType) : (s.sessAfterBuild mt).awaitAck = (s.awaitAck || confirmed mt) := rfl
@[simp] theorem State.sessAfterBuild_ackPending (mt : MType) : (s.sessAfterBuild mt).ackPending = false := rfl
@[simp] theorem State.sessAfterBuild_devaddr (mt : MType) : (s.sessAfterBuild mt).devaddr = s.devaddr := rfl
@[simp] theorem State.sessAfterBuild_fcntUp (mt : MType) : (s.sessAfterBuild mt).fcntUp = s.fcntUp := rfl
@[simp] theorem State.sessAfterBuild_fcntDown (mt : MType) : (s.sessAfterBuild mt).fcntDown = s.fcntDown := rfl
@[simp] theorem State.sessAfterBuild_fport (mt : MType) : (s.sessAfterBuild mt).fport = s.fport := rfl
@[simp] theorem State.sessAfterBuild_opDevaddr (mt : MType) : (s.sessAfterBuild mt).opDevaddr = s.opDevaddr := rfl
@[simp] theorem State.sessAfterBuild_opFcnt (mt : MType) : (s.sessAfterBuild mt).opFcnt = s.opFcnt := rfl
@[simp] theorem State.sessAfterBuild_mic (mt : MType) : (s.sessAfterBuild mt).mic = s.mic := rfl
@[simp] theorem State.sessAfterBuild_micIn (mt : MType) : (s.sessAfterBuild mt).micIn = s.micIn := rfl
@[simp] theorem State.sessAfterBuild_resultOk (mt : MType) : (s.sessAfterBuild mt).resultOk = s.resultOk := rfl
@[simp] theorem State.sessAfterBuild_resultReason (mt : MType) : (s.sessAfterBuild mt).resultReason = s.resultReason := rfl
@[simp] theorem State.sessAfterBuild_flen (mt : MType) : (s.sessAfterBuild mt).flen = s.flen := rfl
@[simp] theorem State.sessAfterBuild_rxHdr (mt : MType) : (s.sessAfterBuild mt).rxHdr = s.rxHdr := rfl
@[simp] theorem State.sessAfterBuild_rxDevaddr (mt : MType) : (s.sessAfterBuild mt).rxDevaddr = s.rxDevaddr := rfl
@[simp] theorem State.sessAfterBuild_rxLayout (mt : MType) : (s.sessAfterBuild mt).rxLayout = s.rxLayout := rfl
@[simp] theorem State.sessAfterBuild_nwkSKey (mt : MType) : (s.sessAfterBuild mt).nwkSKey = s.nwkSKey := rfl
@[simp] theorem State.sessAfterBuild_appSKey (mt : MType) : (s.sessAfterBuild mt).appSKey = s.appSKey := rfl
@[simp] theorem State.sessAfterBuild_appKey (mt : MType) : (s.sessAfterBuild mt).appKey = s.appKey := rfl
@[simp] theorem State.sessAfterBuild_buf (mt : MType) : (s.sessAfterBuild mt).buf = s.buf := rfl
@[simp] theorem State.sessAfterBuild_moves (mt : MType) : (s.sessAfterBuild mt).moves = s.moves := rfl
@[simp] theorem State.sessAfterBuild_draws (mt : MType) : (s.sessAfterBuild mt).draws = s.draws := rfl
@[simp] theorem State.sessAfterBuild_reply (mt : MType) : (s.sessAfterBuild mt).reply = s.reply := rfl

/-! ### A dropped write -/

@[simp] theorem State.dropBusy_en : (s.dropBusy).en = s.en := rfl
@[simp] theorem State.dropBusy_ie : (s.dropBusy).ie = s.ie := rfl
@[simp] theorem State.dropBusy_done : (s.dropBusy).done = s.done := rfl
@[simp] theorem State.dropBusy_cfgerr : (s.dropBusy).cfgerr = s.cfgerr := rfl
@[simp] theorem State.dropBusy_werr : (s.dropBusy).werr = true := rfl
@[simp] theorem State.dropBusy_errcode : (s.dropBusy).errcode = s.errcode := rfl
@[simp] theorem State.dropBusy_cmd : (s.dropBusy).cmd = s.cmd := rfl
@[simp] theorem State.dropBusy_pending : (s.dropBusy).pending = s.pending := rfl
@[simp] theorem State.dropBusy_awaitAck : (s.dropBusy).awaitAck = s.awaitAck := rfl
@[simp] theorem State.dropBusy_ackPending : (s.dropBusy).ackPending = s.ackPending := rfl
@[simp] theorem State.dropBusy_devaddr : (s.dropBusy).devaddr = s.devaddr := rfl
@[simp] theorem State.dropBusy_fcntUp : (s.dropBusy).fcntUp = s.fcntUp := rfl
@[simp] theorem State.dropBusy_fcntDown : (s.dropBusy).fcntDown = s.fcntDown := rfl
@[simp] theorem State.dropBusy_fport : (s.dropBusy).fport = s.fport := rfl
@[simp] theorem State.dropBusy_opDevaddr : (s.dropBusy).opDevaddr = s.opDevaddr := rfl
@[simp] theorem State.dropBusy_opFcnt : (s.dropBusy).opFcnt = s.opFcnt := rfl
@[simp] theorem State.dropBusy_mic : (s.dropBusy).mic = s.mic := rfl
@[simp] theorem State.dropBusy_micIn : (s.dropBusy).micIn = s.micIn := rfl
@[simp] theorem State.dropBusy_resultOk : (s.dropBusy).resultOk = s.resultOk := rfl
@[simp] theorem State.dropBusy_resultReason : (s.dropBusy).resultReason = s.resultReason := rfl
@[simp] theorem State.dropBusy_flen : (s.dropBusy).flen = s.flen := rfl
@[simp] theorem State.dropBusy_rxHdr : (s.dropBusy).rxHdr = s.rxHdr := rfl
@[simp] theorem State.dropBusy_rxDevaddr : (s.dropBusy).rxDevaddr = s.rxDevaddr := rfl
@[simp] theorem State.dropBusy_rxLayout : (s.dropBusy).rxLayout = s.rxLayout := rfl
@[simp] theorem State.dropBusy_nwkSKey : (s.dropBusy).nwkSKey = s.nwkSKey := rfl
@[simp] theorem State.dropBusy_appSKey : (s.dropBusy).appSKey = s.appSKey := rfl
@[simp] theorem State.dropBusy_appKey : (s.dropBusy).appKey = s.appKey := rfl
@[simp] theorem State.dropBusy_buf : (s.dropBusy).buf = s.buf := rfl
@[simp] theorem State.dropBusy_moves : (s.dropBusy).moves = s.moves := rfl
@[simp] theorem State.dropBusy_draws : (s.dropBusy).draws = s.draws := rfl
@[simp] theorem State.dropBusy_reply : (s.dropBusy).reply = s.reply := rfl

/-! ### A STATUS write -/

@[simp] theorem State.writeStatus_en (v : Word) : (s.writeStatus v).en = s.en := rfl
@[simp] theorem State.writeStatus_ie (v : Word) : (s.writeStatus v).ie = s.ie := rfl
@[simp] theorem State.writeStatus_done (v : Word) : (s.writeStatus v).done = (s.done && !v.getLsbD 1) := rfl
@[simp] theorem State.writeStatus_cfgerr (v : Word) : (s.writeStatus v).cfgerr = (s.cfgerr && !v.getLsbD 4) := rfl
@[simp] theorem State.writeStatus_werr (v : Word) : (s.writeStatus v).werr = (s.werr && !v.getLsbD 5) := rfl
@[simp] theorem State.writeStatus_errcode (v : Word) : (s.writeStatus v).errcode = s.errcode := rfl
@[simp] theorem State.writeStatus_cmd (v : Word) : (s.writeStatus v).cmd = s.cmd := rfl
@[simp] theorem State.writeStatus_pending (v : Word) : (s.writeStatus v).pending = s.pending := rfl
@[simp] theorem State.writeStatus_awaitAck (v : Word) : (s.writeStatus v).awaitAck = s.awaitAck := rfl
@[simp] theorem State.writeStatus_ackPending (v : Word) : (s.writeStatus v).ackPending = s.ackPending := rfl
@[simp] theorem State.writeStatus_devaddr (v : Word) : (s.writeStatus v).devaddr = s.devaddr := rfl
@[simp] theorem State.writeStatus_fcntUp (v : Word) : (s.writeStatus v).fcntUp = s.fcntUp := rfl
@[simp] theorem State.writeStatus_fcntDown (v : Word) : (s.writeStatus v).fcntDown = s.fcntDown := rfl
@[simp] theorem State.writeStatus_fport (v : Word) : (s.writeStatus v).fport = s.fport := rfl
@[simp] theorem State.writeStatus_opDevaddr (v : Word) : (s.writeStatus v).opDevaddr = s.opDevaddr := rfl
@[simp] theorem State.writeStatus_opFcnt (v : Word) : (s.writeStatus v).opFcnt = s.opFcnt := rfl
@[simp] theorem State.writeStatus_mic (v : Word) : (s.writeStatus v).mic = s.mic := rfl
@[simp] theorem State.writeStatus_micIn (v : Word) : (s.writeStatus v).micIn = s.micIn := rfl
@[simp] theorem State.writeStatus_resultOk (v : Word) : (s.writeStatus v).resultOk = s.resultOk := rfl
@[simp] theorem State.writeStatus_resultReason (v : Word) : (s.writeStatus v).resultReason = s.resultReason := rfl
@[simp] theorem State.writeStatus_flen (v : Word) : (s.writeStatus v).flen = s.flen := rfl
@[simp] theorem State.writeStatus_rxHdr (v : Word) : (s.writeStatus v).rxHdr = s.rxHdr := rfl
@[simp] theorem State.writeStatus_rxDevaddr (v : Word) : (s.writeStatus v).rxDevaddr = s.rxDevaddr := rfl
@[simp] theorem State.writeStatus_rxLayout (v : Word) : (s.writeStatus v).rxLayout = s.rxLayout := rfl
@[simp] theorem State.writeStatus_nwkSKey (v : Word) : (s.writeStatus v).nwkSKey = s.nwkSKey := rfl
@[simp] theorem State.writeStatus_appSKey (v : Word) : (s.writeStatus v).appSKey = s.appSKey := rfl
@[simp] theorem State.writeStatus_appKey (v : Word) : (s.writeStatus v).appKey = s.appKey := rfl
@[simp] theorem State.writeStatus_buf (v : Word) : (s.writeStatus v).buf = s.buf := rfl
@[simp] theorem State.writeStatus_moves (v : Word) : (s.writeStatus v).moves = s.moves := rfl
@[simp] theorem State.writeStatus_draws (v : Word) : (s.writeStatus v).draws = s.draws := rfl
@[simp] theorem State.writeStatus_reply (v : Word) : (s.writeStatus v).reply = s.reply := rfl

/-! ### A key write -/

@[simp] theorem State.writeKey_en (k : KeySlot) (w : Fin 4) (v : Word) : (s.writeKey k w v).en = s.en := by cases k <;> rfl
@[simp] theorem State.writeKey_ie (k : KeySlot) (w : Fin 4) (v : Word) : (s.writeKey k w v).ie = s.ie := by cases k <;> rfl
@[simp] theorem State.writeKey_done (k : KeySlot) (w : Fin 4) (v : Word) : (s.writeKey k w v).done = s.done := by cases k <;> rfl
@[simp] theorem State.writeKey_cfgerr (k : KeySlot) (w : Fin 4) (v : Word) : (s.writeKey k w v).cfgerr = s.cfgerr := by cases k <;> rfl
@[simp] theorem State.writeKey_werr (k : KeySlot) (w : Fin 4) (v : Word) : (s.writeKey k w v).werr = s.werr := by cases k <;> rfl
@[simp] theorem State.writeKey_errcode (k : KeySlot) (w : Fin 4) (v : Word) : (s.writeKey k w v).errcode = s.errcode := by cases k <;> rfl
@[simp] theorem State.writeKey_cmd (k : KeySlot) (w : Fin 4) (v : Word) : (s.writeKey k w v).cmd = s.cmd := by cases k <;> rfl
@[simp] theorem State.writeKey_pending (k : KeySlot) (w : Fin 4) (v : Word) : (s.writeKey k w v).pending = s.pending := by cases k <;> rfl
@[simp] theorem State.writeKey_awaitAck (k : KeySlot) (w : Fin 4) (v : Word) : (s.writeKey k w v).awaitAck = s.awaitAck := by cases k <;> rfl
@[simp] theorem State.writeKey_ackPending (k : KeySlot) (w : Fin 4) (v : Word) : (s.writeKey k w v).ackPending = s.ackPending := by cases k <;> rfl
@[simp] theorem State.writeKey_devaddr (k : KeySlot) (w : Fin 4) (v : Word) : (s.writeKey k w v).devaddr = s.devaddr := by cases k <;> rfl
@[simp] theorem State.writeKey_fcntUp (k : KeySlot) (w : Fin 4) (v : Word) : (s.writeKey k w v).fcntUp = s.fcntUp := by cases k <;> rfl
@[simp] theorem State.writeKey_fcntDown (k : KeySlot) (w : Fin 4) (v : Word) : (s.writeKey k w v).fcntDown = s.fcntDown := by cases k <;> rfl
@[simp] theorem State.writeKey_fport (k : KeySlot) (w : Fin 4) (v : Word) : (s.writeKey k w v).fport = s.fport := by cases k <;> rfl
@[simp] theorem State.writeKey_opDevaddr (k : KeySlot) (w : Fin 4) (v : Word) : (s.writeKey k w v).opDevaddr = s.opDevaddr := by cases k <;> rfl
@[simp] theorem State.writeKey_opFcnt (k : KeySlot) (w : Fin 4) (v : Word) : (s.writeKey k w v).opFcnt = s.opFcnt := by cases k <;> rfl
@[simp] theorem State.writeKey_mic (k : KeySlot) (w : Fin 4) (v : Word) : (s.writeKey k w v).mic = s.mic := by cases k <;> rfl
@[simp] theorem State.writeKey_micIn (k : KeySlot) (w : Fin 4) (v : Word) : (s.writeKey k w v).micIn = s.micIn := by cases k <;> rfl
@[simp] theorem State.writeKey_resultOk (k : KeySlot) (w : Fin 4) (v : Word) : (s.writeKey k w v).resultOk = s.resultOk := by cases k <;> rfl
@[simp] theorem State.writeKey_resultReason (k : KeySlot) (w : Fin 4) (v : Word) : (s.writeKey k w v).resultReason = s.resultReason := by cases k <;> rfl
@[simp] theorem State.writeKey_flen (k : KeySlot) (w : Fin 4) (v : Word) : (s.writeKey k w v).flen = s.flen := by cases k <;> rfl
@[simp] theorem State.writeKey_rxHdr (k : KeySlot) (w : Fin 4) (v : Word) : (s.writeKey k w v).rxHdr = s.rxHdr := by cases k <;> rfl
@[simp] theorem State.writeKey_rxDevaddr (k : KeySlot) (w : Fin 4) (v : Word) : (s.writeKey k w v).rxDevaddr = s.rxDevaddr := by cases k <;> rfl
@[simp] theorem State.writeKey_rxLayout (k : KeySlot) (w : Fin 4) (v : Word) : (s.writeKey k w v).rxLayout = s.rxLayout := by cases k <;> rfl
@[simp] theorem State.writeKey_buf (k : KeySlot) (w : Fin 4) (v : Word) : (s.writeKey k w v).buf = s.buf := by cases k <;> rfl
@[simp] theorem State.writeKey_moves (k : KeySlot) (w : Fin 4) (v : Word) : (s.writeKey k w v).moves = s.moves := by cases k <;> rfl
@[simp] theorem State.writeKey_draws (k : KeySlot) (w : Fin 4) (v : Word) : (s.writeKey k w v).draws = s.draws := by cases k <;> rfl
@[simp] theorem State.writeKey_reply (k : KeySlot) (w : Fin 4) (v : Word) : (s.writeKey k w v).reply = s.reply := by cases k <;> rfl

/-- A key write changes one word of one slot. -/
theorem State.writeKey_keyRegs (k j : KeySlot) (w : Fin 4) (v : Word) :
    (s.writeKey k w v).keyRegs j = if j = k then (s.keyRegs k).writeWord w v else s.keyRegs j := by
  cases k <;> cases j <;> rfl

/-! ### A CTRL write -/

@[simp] theorem State.writeCtrl_en (v : Word) : (s.writeCtrl v).en = v.getLsbD 0 := by unfold State.writeCtrl; dsimp only; split <;> rfl
@[simp] theorem State.writeCtrl_ie (v : Word) : (s.writeCtrl v).ie = v.getLsbD 1 := by unfold State.writeCtrl; dsimp only; split <;> rfl
@[simp] theorem State.writeCtrl_cfgerr (v : Word) : (s.writeCtrl v).cfgerr = s.cfgerr := by unfold State.writeCtrl; dsimp only; split <;> rfl
@[simp] theorem State.writeCtrl_werr (v : Word) : (s.writeCtrl v).werr = s.werr := by unfold State.writeCtrl; dsimp only; split <;> rfl
@[simp] theorem State.writeCtrl_cmd (v : Word) : (s.writeCtrl v).cmd = s.cmd := by unfold State.writeCtrl; dsimp only; split <;> rfl
@[simp] theorem State.writeCtrl_awaitAck (v : Word) : (s.writeCtrl v).awaitAck = s.awaitAck := by unfold State.writeCtrl; dsimp only; split <;> rfl
@[simp] theorem State.writeCtrl_ackPending (v : Word) : (s.writeCtrl v).ackPending = s.ackPending := by unfold State.writeCtrl; dsimp only; split <;> rfl
@[simp] theorem State.writeCtrl_devaddr (v : Word) : (s.writeCtrl v).devaddr = s.devaddr := by unfold State.writeCtrl; dsimp only; split <;> rfl
@[simp] theorem State.writeCtrl_fcntUp (v : Word) : (s.writeCtrl v).fcntUp = s.fcntUp := by unfold State.writeCtrl; dsimp only; split <;> rfl
@[simp] theorem State.writeCtrl_fcntDown (v : Word) : (s.writeCtrl v).fcntDown = s.fcntDown := by unfold State.writeCtrl; dsimp only; split <;> rfl
@[simp] theorem State.writeCtrl_fport (v : Word) : (s.writeCtrl v).fport = s.fport := by unfold State.writeCtrl; dsimp only; split <;> rfl
@[simp] theorem State.writeCtrl_opDevaddr (v : Word) : (s.writeCtrl v).opDevaddr = s.opDevaddr := by unfold State.writeCtrl; dsimp only; split <;> rfl
@[simp] theorem State.writeCtrl_opFcnt (v : Word) : (s.writeCtrl v).opFcnt = s.opFcnt := by unfold State.writeCtrl; dsimp only; split <;> rfl
@[simp] theorem State.writeCtrl_mic (v : Word) : (s.writeCtrl v).mic = s.mic := by unfold State.writeCtrl; dsimp only; split <;> rfl
@[simp] theorem State.writeCtrl_micIn (v : Word) : (s.writeCtrl v).micIn = s.micIn := by unfold State.writeCtrl; dsimp only; split <;> rfl
@[simp] theorem State.writeCtrl_resultOk (v : Word) : (s.writeCtrl v).resultOk = s.resultOk := by unfold State.writeCtrl; dsimp only; split <;> rfl
@[simp] theorem State.writeCtrl_resultReason (v : Word) : (s.writeCtrl v).resultReason = s.resultReason := by unfold State.writeCtrl; dsimp only; split <;> rfl
@[simp] theorem State.writeCtrl_flen (v : Word) : (s.writeCtrl v).flen = s.flen := by unfold State.writeCtrl; dsimp only; split <;> rfl
@[simp] theorem State.writeCtrl_rxHdr (v : Word) : (s.writeCtrl v).rxHdr = s.rxHdr := by unfold State.writeCtrl; dsimp only; split <;> rfl
@[simp] theorem State.writeCtrl_rxDevaddr (v : Word) : (s.writeCtrl v).rxDevaddr = s.rxDevaddr := by unfold State.writeCtrl; dsimp only; split <;> rfl
@[simp] theorem State.writeCtrl_rxLayout (v : Word) : (s.writeCtrl v).rxLayout = s.rxLayout := by unfold State.writeCtrl; dsimp only; split <;> rfl
@[simp] theorem State.writeCtrl_nwkSKey (v : Word) : (s.writeCtrl v).nwkSKey = s.nwkSKey := by unfold State.writeCtrl; dsimp only; split <;> rfl
@[simp] theorem State.writeCtrl_appSKey (v : Word) : (s.writeCtrl v).appSKey = s.appSKey := by unfold State.writeCtrl; dsimp only; split <;> rfl
@[simp] theorem State.writeCtrl_appKey (v : Word) : (s.writeCtrl v).appKey = s.appKey := by unfold State.writeCtrl; dsimp only; split <;> rfl
@[simp] theorem State.writeCtrl_buf (v : Word) : (s.writeCtrl v).buf = s.buf := by unfold State.writeCtrl; dsimp only; split <;> rfl
@[simp] theorem State.writeCtrl_moves (v : Word) : (s.writeCtrl v).moves = s.moves := by unfold State.writeCtrl; dsimp only; split <;> rfl
@[simp] theorem State.writeCtrl_draws (v : Word) : (s.writeCtrl v).draws = s.draws := by unfold State.writeCtrl; dsimp only; split <;> rfl
@[simp] theorem State.writeCtrl_reply (v : Word) : (s.writeCtrl v).reply = s.reply := by unfold State.writeCtrl; dsimp only; split <;> rfl

/-- A CTRL write that does not stop a busy block only writes EN and IE (R257). -/
theorem State.writeCtrl_plain (v : Word) (h : (s.busy && s.en && !v.getLsbD 0) = false) :
    s.writeCtrl v = { s with en := v.getLsbD 0, ie := v.getLsbD 1 } := by
  unfold State.writeCtrl; rw [h]; rfl

/-- A CTRL write that stops a busy block aborts its command (R257). -/
theorem State.writeCtrl_abort (v : Word) (h : (s.busy && s.en && !v.getLsbD 0) = true) :
    s.writeCtrl v = State.finish { s with en := v.getLsbD 0, ie := v.getLsbD 1 } .abort := by
  unfold State.writeCtrl; rw [h]; rfl

/-! ### A locked write -/

@[simp] theorem State.locked_en : (s.locked t).en = if s.en then s.en else t.en := by unfold State.locked; split <;> rfl
@[simp] theorem State.locked_ie : (s.locked t).ie = if s.en then s.ie else t.ie := by unfold State.locked; split <;> rfl
@[simp] theorem State.locked_done : (s.locked t).done = if s.en then s.done else t.done := by unfold State.locked; split <;> rfl
@[simp] theorem State.locked_cfgerr : (s.locked t).cfgerr = if s.en then true else t.cfgerr := by unfold State.locked; split <;> rfl
@[simp] theorem State.locked_werr : (s.locked t).werr = if s.en then s.werr else t.werr := by unfold State.locked; split <;> rfl
@[simp] theorem State.locked_errcode : (s.locked t).errcode = if s.en then s.errcode else t.errcode := by unfold State.locked; split <;> rfl
@[simp] theorem State.locked_cmd : (s.locked t).cmd = if s.en then s.cmd else t.cmd := by unfold State.locked; split <;> rfl
@[simp] theorem State.locked_pending : (s.locked t).pending = if s.en then s.pending else t.pending := by unfold State.locked; split <;> rfl
@[simp] theorem State.locked_awaitAck : (s.locked t).awaitAck = if s.en then s.awaitAck else t.awaitAck := by unfold State.locked; split <;> rfl
@[simp] theorem State.locked_ackPending : (s.locked t).ackPending = if s.en then s.ackPending else t.ackPending := by unfold State.locked; split <;> rfl
@[simp] theorem State.locked_devaddr : (s.locked t).devaddr = if s.en then s.devaddr else t.devaddr := by unfold State.locked; split <;> rfl
@[simp] theorem State.locked_fcntUp : (s.locked t).fcntUp = if s.en then s.fcntUp else t.fcntUp := by unfold State.locked; split <;> rfl
@[simp] theorem State.locked_fcntDown : (s.locked t).fcntDown = if s.en then s.fcntDown else t.fcntDown := by unfold State.locked; split <;> rfl
@[simp] theorem State.locked_fport : (s.locked t).fport = if s.en then s.fport else t.fport := by unfold State.locked; split <;> rfl
@[simp] theorem State.locked_opDevaddr : (s.locked t).opDevaddr = if s.en then s.opDevaddr else t.opDevaddr := by unfold State.locked; split <;> rfl
@[simp] theorem State.locked_opFcnt : (s.locked t).opFcnt = if s.en then s.opFcnt else t.opFcnt := by unfold State.locked; split <;> rfl
@[simp] theorem State.locked_mic : (s.locked t).mic = if s.en then s.mic else t.mic := by unfold State.locked; split <;> rfl
@[simp] theorem State.locked_micIn : (s.locked t).micIn = if s.en then s.micIn else t.micIn := by unfold State.locked; split <;> rfl
@[simp] theorem State.locked_resultOk : (s.locked t).resultOk = if s.en then s.resultOk else t.resultOk := by unfold State.locked; split <;> rfl
@[simp] theorem State.locked_resultReason : (s.locked t).resultReason = if s.en then s.resultReason else t.resultReason := by unfold State.locked; split <;> rfl
@[simp] theorem State.locked_flen : (s.locked t).flen = if s.en then s.flen else t.flen := by unfold State.locked; split <;> rfl
@[simp] theorem State.locked_rxHdr : (s.locked t).rxHdr = if s.en then s.rxHdr else t.rxHdr := by unfold State.locked; split <;> rfl
@[simp] theorem State.locked_rxDevaddr : (s.locked t).rxDevaddr = if s.en then s.rxDevaddr else t.rxDevaddr := by unfold State.locked; split <;> rfl
@[simp] theorem State.locked_rxLayout : (s.locked t).rxLayout = if s.en then s.rxLayout else t.rxLayout := by unfold State.locked; split <;> rfl
@[simp] theorem State.locked_nwkSKey : (s.locked t).nwkSKey = if s.en then s.nwkSKey else t.nwkSKey := by unfold State.locked; split <;> rfl
@[simp] theorem State.locked_appSKey : (s.locked t).appSKey = if s.en then s.appSKey else t.appSKey := by unfold State.locked; split <;> rfl
@[simp] theorem State.locked_appKey : (s.locked t).appKey = if s.en then s.appKey else t.appKey := by unfold State.locked; split <;> rfl
@[simp] theorem State.locked_buf : (s.locked t).buf = if s.en then s.buf else t.buf := by unfold State.locked; split <;> rfl
@[simp] theorem State.locked_moves : (s.locked t).moves = if s.en then s.moves else t.moves := by unfold State.locked; split <;> rfl
@[simp] theorem State.locked_draws : (s.locked t).draws = if s.en then s.draws else t.draws := by unfold State.locked; split <;> rfl
@[simp] theorem State.locked_reply : (s.locked t).reply = if s.en then s.reply else t.reply := by unfold State.locked; split <;> rfl

/-! ### RESET_IN -/

@[simp] theorem State.assertReset_en : (s.assertReset).en = State.reset.en := rfl
@[simp] theorem State.assertReset_ie : (s.assertReset).ie = State.reset.ie := rfl
@[simp] theorem State.assertReset_done : (s.assertReset).done = State.reset.done := rfl
@[simp] theorem State.assertReset_cfgerr : (s.assertReset).cfgerr = State.reset.cfgerr := rfl
@[simp] theorem State.assertReset_werr : (s.assertReset).werr = State.reset.werr := rfl
@[simp] theorem State.assertReset_errcode : (s.assertReset).errcode = State.reset.errcode := rfl
@[simp] theorem State.assertReset_cmd : (s.assertReset).cmd = State.reset.cmd := rfl
@[simp] theorem State.assertReset_pending : (s.assertReset).pending = State.reset.pending := rfl
@[simp] theorem State.assertReset_awaitAck : (s.assertReset).awaitAck = State.reset.awaitAck := rfl
@[simp] theorem State.assertReset_ackPending : (s.assertReset).ackPending = State.reset.ackPending := rfl
@[simp] theorem State.assertReset_devaddr : (s.assertReset).devaddr = State.reset.devaddr := rfl
@[simp] theorem State.assertReset_fcntUp : (s.assertReset).fcntUp = State.reset.fcntUp := rfl
@[simp] theorem State.assertReset_fcntDown : (s.assertReset).fcntDown = State.reset.fcntDown := rfl
@[simp] theorem State.assertReset_fport : (s.assertReset).fport = State.reset.fport := rfl
@[simp] theorem State.assertReset_opDevaddr : (s.assertReset).opDevaddr = State.reset.opDevaddr := rfl
@[simp] theorem State.assertReset_opFcnt : (s.assertReset).opFcnt = State.reset.opFcnt := rfl
@[simp] theorem State.assertReset_mic : (s.assertReset).mic = State.reset.mic := rfl
@[simp] theorem State.assertReset_micIn : (s.assertReset).micIn = State.reset.micIn := rfl
@[simp] theorem State.assertReset_resultOk : (s.assertReset).resultOk = State.reset.resultOk := rfl
@[simp] theorem State.assertReset_resultReason : (s.assertReset).resultReason = State.reset.resultReason := rfl
@[simp] theorem State.assertReset_flen : (s.assertReset).flen = State.reset.flen := rfl
@[simp] theorem State.assertReset_rxHdr : (s.assertReset).rxHdr = State.reset.rxHdr := rfl
@[simp] theorem State.assertReset_rxDevaddr : (s.assertReset).rxDevaddr = State.reset.rxDevaddr := rfl
@[simp] theorem State.assertReset_rxLayout : (s.assertReset).rxLayout = State.reset.rxLayout := rfl
@[simp] theorem State.assertReset_nwkSKey : (s.assertReset).nwkSKey = State.reset.nwkSKey := rfl
@[simp] theorem State.assertReset_appSKey : (s.assertReset).appSKey = State.reset.appSKey := rfl
@[simp] theorem State.assertReset_appKey : (s.assertReset).appKey = State.reset.appKey := rfl
@[simp] theorem State.assertReset_buf : (s.assertReset).buf = State.reset.buf := rfl
@[simp] theorem State.assertReset_moves : (s.assertReset).moves = s.moves := rfl
@[simp] theorem State.assertReset_draws : (s.assertReset).draws = s.draws := rfl
@[simp] theorem State.assertReset_reply : (s.assertReset).reply = State.reset.reply := rfl

/-! ### Derived views -/

@[simp] theorem State.busy_finish (c : CmdCode) : (s.finish c).busy = false := rfl
@[simp] theorem State.busy_launch (w : Word) : (s.launch w).busy = true := rfl

/-- BUSY says that a command is PENDING (R38). -/
theorem State.busy_iff : s.busy = true ↔ ∃ w, s.pending = some w := by
  simp [State.busy, Option.isSome_iff_exists]

theorem State.not_busy_iff : s.busy = false ↔ s.pending = none := by
  simp [State.busy]

/-- Key slots depend on the key registers alone. -/
theorem State.keyRegs_congr {s t : State} (h0 : t.nwkSKey = s.nwkSKey) (h1 : t.appSKey = s.appSKey)
    (h2 : t.appKey = s.appKey) (k : KeySlot) : t.keyRegs k = s.keyRegs k := by
  cases k <;> simp [State.keyRegs, h0, h1, h2]

theorem State.key_congr {s t : State} {k : KeySlot} (h : t.keyRegs k = s.keyRegs k) : t.key k = s.key k := by
  simp [State.key, h]

theorem State.keyLoaded_congr {s t : State} {k : KeySlot} (h : t.keyRegs k = s.keyRegs k) :
    t.keyLoaded k = s.keyLoaded k := by
  simp [State.keyLoaded, h]

end Sys2Proof.Machine
end

