-- ==== Sys2Proof/Laws/Ops.lean ====
section
/-! SUPPORT. What each shared operation of a command can do: the checks, the reads, and the end of a command. -/

namespace Sys2Proof.Machine

@[simp] theorem firstError_nil : firstError [] = none := rfl

@[simp] theorem firstError_cons (failed : Bool) (c : CmdCode) (rest : List (Bool × CmdCode)) :
    firstError ((failed, c) :: rest) = if failed then some c else firstError rest := rfl

/-- The end of a command answers the finished state. -/
@[simp] theorem endCommand_next {c : CmdCode} {s t : State} : endCommand c s = .next t ↔ t = s.finish c := by
  constructor
  · intro h; cases h; rfl
  · rintro rfl; rfl

/-- Where every check passes the body runs. -/
theorem runChecked_pass {checks : List (Bool × CmdCode)} (h : firstError checks = none) (s : State) (body : Result) :
    runChecked checks s body = body := by
  simp [runChecked, h]

/-- Where a check fails the command ends with the first failing check's code. -/
theorem runChecked_fail {checks : List (Bool × CmdCode)} {c : CmdCode} (h : firstError checks = some c) (s : State)
    (body : Result) : runChecked checks s body = endCommand c s := by
  simp [runChecked, h]

/-- Everything checks can do: end with the first failing code and no other effect, or run the body. -/
theorem runChecked_next {checks : List (Bool × CmdCode)} {s t : State} {body : Result} :
    runChecked checks s body = .next t ↔
      (∃ c, firstError checks = some c ∧ t = s.finish c) ∨ (firstError checks = none ∧ body = .next t) := by
  unfold runChecked
  split <;> rename_i h <;> simp [h]

/-- A code a list of checks reports is one of the list's codes. -/
theorem firstError_mem {checks : List (Bool × CmdCode)} {c : CmdCode} (h : firstError checks = some c) :
    c ∈ checks.map Prod.snd := by
  induction checks with
  | nil => cases h
  | cons p rest ih =>
    obtain ⟨b, d⟩ := p
    rw [firstError_cons] at h
    split at h
    · cases h; simp
    · simp [ih h]

/-- A command's MemRead that succeeds. -/
theorem withBytes_some {s : State} {off n : Nat} {d : List Byte} (h : readBytes s.buf off n = some d)
    (body : List Byte → Result) : withBytes s off n body = body d := by
  simp [withBytes, h]

/-- A command's byte read that succeeds. -/
theorem withByte_some {s : State} {off : Nat} {b : Byte} (h : readByte s.buf off = some b) (body : Byte → Result) :
    withByte s off body = body b := by
  simp [withByte, h]

/-- Everything a MemRead can do where the command goes on. -/
theorem withBytes_next {s t : State} {off n : Nat} {body : List Byte → Result} :
    withBytes s off n body = .next t ↔ ∃ d, readBytes s.buf off n = some d ∧ body d = .next t := by
  unfold withBytes
  split <;> rename_i h <;> simp [h]

/-- Everything a byte read can do where the command goes on. -/
theorem withByte_next {s t : State} {off : Nat} {body : Byte → Result} :
    withByte s off body = .next t ↔ ∃ b, readByte s.buf off = some b ∧ body b = .next t := by
  unfold withByte
  split <;> rename_i h <;> simp [h]

/-- A rejected word ends in STATE or OPCODE (R252, R254). -/
theorem rejectWord_next {s t : State} :
    rejectWord s = .next t ↔ t = s.finish (if s.en then .opcode else .state) := by
  cases h : s.en <;> simp [rejectWord, runChecked, h]

/-! ### Operand forms -/

/-- The range check passes exactly where OFF + LEN ≤ 256 (R253). -/
theorem outOfRange_eq_false {off len : Byte} : outOfRange off len = false ↔ off.toNat + len.toNat ≤ 256 := by
  unfold outOfRange
  rw [decide_eq_false_iff_not]
  exact Nat.not_lt

/-- FOptsLen is FCtrl's low nibble (R127). -/
theorem foptsLen_eq (fctrl : Byte) : foptsLen fctrl = fctrl.toNat % 16 := by simp [foptsLen]

/-- A word of a key slot after a write of one of its words (R59, R60). -/
theorem KeyRegs.word_writeWord (r : KeyRegs) (w w' : Fin 4) (v : Word) :
    (r.writeWord w v).word w' = if w = w' then ⟨v, true⟩ else r.word w' := by
  match w, w' with
  | 0, 0 | 1, 1 | 2, 2 | 3, 3 => rfl
  | 0, 1 | 0, 2 | 0, 3 | 1, 0 | 1, 2 | 1, 3 | 2, 0 | 2, 1 | 2, 3 | 3, 0 | 3, 1 | 3, 2 => rfl

/-- The slots after a write of a key word. -/
theorem State.keyRegs_writeKey (s : State) (k k' : KeySlot) (w : Fin 4) (v : Word) :
    (s.writeKey k w v).keyRegs k' = if k = k' then (s.keyRegs k).writeWord w v else s.keyRegs k' := by
  cases k <;> cases k' <;> rfl

/-- A locked write while the block runs (R36). -/
theorem State.locked_running {s : State} (h : s.en = true) (t : State) : s.locked t = { s with cfgerr := true } := by
  simp [State.locked, h]

/-- A locked write while the block is stopped (R36). -/
theorem State.locked_stopped {s : State} (h : s.en = false) (t : State) : s.locked t = t := by
  simp [State.locked, h]

end Sys2Proof.Machine
end

