-- ==== Sys2Proof/Laws/Exec.lean ====
section
/-! SUPPORT. Everything each command can do when it answers a next state, one lemma a command. -/

namespace Sys2Proof.Machine

/-! ### The crypto commands -/

/-- The shared checks of MIC, VERIFY and CRYPT where they all pass. -/
theorem withPrimitive_pass {k : KeySlot} {off len : Byte} {s : State} {data : List Byte} (hen : s.en = true)
    (hr : outOfRange off len = false) (hk : s.keyLoaded k = true)
    (hd : readBytes s.buf off.toNat len.toNat = some data) (body : KeySlot → List Byte → Result) :
    withPrimitive (.slot k) off len s body = body k data := by
  simp [withPrimitive, runChecked, withBytes, hen, hr, hk, hd]

/-- Everything the shared part of MIC, VERIFY and CRYPT can do: an error with no other effect, in the order of R259, or the body. -/
theorem withPrimitive_next {ksel : KSel} {off len : Byte} {s t : State} {body : KeySlot → List Byte → Result}
    (h : withPrimitive ksel off len s body = .next t) :
    (s.en = false ∧ t = s.finish .state) ∨ (s.en = true ∧ ksel = .noSlot ∧ t = s.finish .opcode) ∨
      ∃ k, ksel = .slot k ∧ s.en = true ∧
        ((outOfRange off len = true ∧ t = s.finish .range) ∨
          (outOfRange off len = false ∧ s.keyLoaded k = false ∧ t = s.finish .key) ∨
          (outOfRange off len = false ∧ s.keyLoaded k = true ∧
            ∃ data, readBytes s.buf off.toNat len.toNat = some data ∧ body k data = .next t)) := by
  rcases runChecked_next.1 h with ⟨c, hc, rfl⟩ | ⟨hen, hb⟩
  · left; cases he : s.en <;> simp_all
  · have hen : s.en = true := by simpa using hen
    right
    cases ksel with
    | noSlot => left; exact ⟨hen, rfl, endCommand_next.1 hb⟩
    | slot k =>
      refine .inr ⟨k, rfl, hen, ?_⟩
      rcases runChecked_next.1 hb with ⟨c, hc, rfl⟩ | ⟨hf, hb⟩
      · cases hr : outOfRange off len <;> cases hk : s.keyLoaded k <;> simp_all
      · have hr : outOfRange off len = false := by cases hr : outOfRange off len <;> simp_all
        have hk : s.keyLoaded k = true := by cases hk : s.keyLoaded k <;> simp_all
        exact .inr (.inr ⟨hr, hk, withBytes_next.1 hb⟩)

/-- Everything MIC can do: an error with no other effect, or MIC written. -/
theorem execMic_next {ksel : KSel} {dir : Dir} {off len : Byte} {s t : State} (h : execMic ksel dir off len s = .next t) :
    (∃ c, c ≠ .ok ∧ t = s.finish c) ∨ ∃ k data, ksel = .slot k ∧ readBytes s.buf off.toNat len.toNat = some data ∧
      t = State.finish { s with mic := wordOfLE (s.primitiveMic k dir data) } .ok := by
  rcases withPrimitive_next h with ⟨-, rfl⟩ | ⟨-, -, rfl⟩ | ⟨k, rfl, -, ⟨-, rfl⟩ | ⟨-, -, rfl⟩ | ⟨-, -, d, hd, hb⟩⟩
  · exact .inl ⟨.state, by decide, rfl⟩
  · exact .inl ⟨.opcode, by decide, rfl⟩
  · exact .inl ⟨.range, by decide, rfl⟩
  · exact .inl ⟨.key, by decide, rfl⟩
  · exact .inr ⟨k, d, rfl, hd, endCommand_next.1 hb⟩

/-- Everything VERIFY can do: an error with no other effect, or MIC and RESULT written. -/
theorem execVerify_next {ksel : KSel} {dir : Dir} {off len : Byte} {s t : State}
    (h : execVerify ksel dir off len s = .next t) :
    (∃ c, c ≠ .ok ∧ t = s.finish c) ∨ ∃ k data, ksel = .slot k ∧ readBytes s.buf off.toNat len.toNat = some data ∧
      t = (State.setResult { s with mic := wordOfLE (s.primitiveMic k dir data) }
        (decide (s.primitiveMic k dir data = le32 s.micIn)) 0).finish .ok := by
  rcases withPrimitive_next h with ⟨-, rfl⟩ | ⟨-, -, rfl⟩ | ⟨k, rfl, -, ⟨-, rfl⟩ | ⟨-, -, rfl⟩ | ⟨-, -, d, hd, hb⟩⟩
  · exact .inl ⟨.state, by decide, rfl⟩
  · exact .inl ⟨.opcode, by decide, rfl⟩
  · exact .inl ⟨.range, by decide, rfl⟩
  · exact .inl ⟨.key, by decide, rfl⟩
  · exact .inr ⟨k, d, rfl, hd, endCommand_next.1 hb⟩

/-- Everything CRYPT can do: an error with no other effect, or its region, which lies in the buffer, written. -/
theorem execCrypt_next {ksel : KSel} {dir : Dir} {off len : Byte} {s t : State}
    (h : execCrypt ksel dir off len s = .next t) :
    (∃ c, c ≠ .ok ∧ t = s.finish c) ∨ ∃ k data, ksel = .slot k ∧ outOfRange off len = false ∧
      readBytes s.buf off.toNat len.toNat = some data ∧
      t = (s.memWrite off.toNat (cryptBytes (s.key k) dir s.opDevaddr s.opFcnt data)).finish .ok := by
  rcases withPrimitive_next h with ⟨-, rfl⟩ | ⟨-, -, rfl⟩ | ⟨k, rfl, -, ⟨-, rfl⟩ | ⟨-, -, rfl⟩ | ⟨hr, -, d, hd, hb⟩⟩
  · exact .inl ⟨.state, by decide, rfl⟩
  · exact .inl ⟨.opcode, by decide, rfl⟩
  · exact .inl ⟨.range, by decide, rfl⟩
  · exact .inl ⟨.key, by decide, rfl⟩
  · exact .inr ⟨k, d, rfl, hr, hd, endCommand_next.1 hb⟩

/-! ### BUILD -/

/-- The length of the frame BUILD assembles before its MIC (R206). -/
theorem length_buildMessage (s : State) (mt : MType) (p : List Byte) :
    (s.buildMessage mt p).length = if p.length = 0 then 8 else 9 + p.length := by
  unfold State.buildMessage State.buildBody
  split
  · simp [*]
  · simp [*]; omega

/-- The length of the finished frame (R206). -/
theorem length_buildFrame (s : State) (mt : MType) (p : List Byte) :
    (s.buildFrame mt p).length = if p.length = 0 then 12 else 13 + p.length := by
  simp only [State.buildFrame, List.length_append, length_buildMessage, State.buildMic, length_mic4]
  split <;> omega

/-- Everything BUILD can do: an error with no other effect, or the frame at BUF[0], FLEN, MIC and SESS written. -/
theorem execBuild_next {off len : Byte} {mt : MType} {s t : State} (h : execBuild off len mt s = .next t) :
    (∃ c, c ≠ .ok ∧ t = s.finish c) ∨ ∃ p, firstError (buildChecks off len mt s) = none ∧
      readBytes s.buf off.toNat len.toNat = some p ∧
      t = (State.memWrite { s with
            flen := BitVec.ofNat 8 ((s.buildMessage mt p).length + Config.micBytes)
            mic := wordOfLE (s.buildMic mt p) } 0 (s.buildFrame mt p) |>.sessAfterBuild mt).finish .ok := by
  rcases runChecked_next.1 h with ⟨c, hc, rfl⟩ | ⟨hf, hb⟩
  · refine .inl ⟨c, ?_, rfl⟩
    have := firstError_mem hc
    rintro rfl
    simp [buildChecks] at this
  · obtain ⟨p, hp, hb⟩ := withBytes_next.1 hb
    exact .inr ⟨p, hf, hp, endCommand_next.1 hb⟩

/-- What passing BUILD's checks says (R205). -/
theorem buildChecks_none {off len : Byte} {mt : MType} {s : State} :
    firstError (buildChecks off len mt s) = none ↔ s.en = true ∧ buildAccepts mt = true ∧ outOfRange off len = false ∧
      len.toNat ≤ Config.maxPayload ∧ s.keyLoaded .nwkSKey = true ∧ s.keyLoaded .appSKey = true := by
  cases h1 : s.en <;> cases h2 : buildAccepts mt <;> cases h3 : outOfRange off len <;>
    cases h4 : s.keyLoaded .nwkSKey <;> cases h5 : s.keyLoaded .appSKey <;>
    by_cases h6 : Config.maxPayload < len.toNat <;> (simp [buildChecks, h1, h2, h3, h4, h5, h6]; try omega)

/-! ### VALIDATE -/

/-- Everything a discard can do (R216). -/
@[simp] theorem discard_next {r : BitVec 3} {s t : State} : discard r s = .next t ↔ t = (s.setResult false r).finish .ok :=
  endCommand_next

/-- Everything check 4 can do: acceptance with the trimmed length, or the discard with reason 4; MIC is written in both. -/
theorem validateFinish_next {n : Nat} {m claimed : List Byte} {s t : State} (h : validateFinish n m claimed s = .next t) :
    (m = claimed ∧ t = (State.setResult { s with mic := wordOfLE m, flen := BitVec.ofNat 8 (n - Config.micBytes) }
      true 0).finish .ok) ∨
    (m ≠ claimed ∧ t = (State.setResult { s with mic := wordOfLE m } false 4).finish .ok) := by
  unfold validateFinish at h
  split at h
  · exact .inl ⟨‹_›, endCommand_next.1 h⟩
  · exact .inr ⟨‹_›, discard_next.1 h⟩

/-- Everything VALIDATE can do: an error, one of the discards 1, 2 and 3, or check 4. -/
theorem execValidate_next {len : Byte} {s t : State} (h : execValidate len s = .next t) :
    (∃ c, c ≠ .ok ∧ t = s.finish c) ∨
    (len.toNat < Config.minValidLen ∧ t = (s.setResult false 1).finish .ok) ∨
    (Config.minValidLen ≤ len.toNat ∧ ∃ mhdr, readByte s.buf 0 = some mhdr ∧
      ((downlinkData (mhdrType mhdr) = false ∧ t = (s.setResult false 2).finish .ok) ∨
        (downlinkData (mhdrType mhdr) = true ∧ ∃ addr, readBytes s.buf 1 4 = some addr ∧
          ((wordOfLE addr ≠ s.devaddr ∧ t = (s.setResult false 3).finish .ok) ∨
            (wordOfLE addr = s.devaddr ∧ ∃ fcnt data claimed, readBytes s.buf 6 2 = some fcnt ∧
              readBytes s.buf 0 (len.toNat - Config.micBytes) = some data ∧
              readBytes s.buf (len.toNat - Config.micBytes) Config.micBytes = some claimed ∧
              validateFinish len.toNat (s.validateMic (wordOfLE addr) (fcntOf fcnt) data) claimed s = .next t))))) := by
  rcases runChecked_next.1 h with ⟨c, hc, rfl⟩ | ⟨-, hb⟩
  · refine .inl ⟨c, ?_, rfl⟩
    have := firstError_mem hc
    rintro rfl
    simp [validateChecks] at this
  · right
    split at hb
    · exact .inl ⟨‹_›, discard_next.1 hb⟩
    · refine .inr ⟨by omega, ?_⟩
      obtain ⟨mhdr, hm, hb⟩ := withByte_next.1 hb
      refine ⟨mhdr, hm, ?_⟩
      cases hd : downlinkData (mhdrType mhdr)
      · exact .inl ⟨rfl, by simpa [hd] using hb⟩
      · simp only [hd, Bool.not_true, Bool.false_eq_true, if_false] at hb
        obtain ⟨addr, ha, hb⟩ := withBytes_next.1 hb
        refine .inr ⟨rfl, addr, ha, ?_⟩
        split at hb
        · exact .inl ⟨‹_›, discard_next.1 hb⟩
        · obtain ⟨fcnt, hf, hb⟩ := withBytes_next.1 hb
          obtain ⟨data, hda, hb⟩ := withBytes_next.1 hb
          obtain ⟨claimed, hc, hb⟩ := withBytes_next.1 hb
          exact .inr ⟨by simp_all, fcnt, data, claimed, hf, hda, hc, hb⟩

/-! ### PARSE -/

/-- The fields of RX_LAYOUT (R58). -/
theorem rxLayoutWord_fields {plen poff : Nat} (hl : plen < 256) (ho : poff < 256) (present : Bool) (fport : Byte) :
    ((rxLayoutWord plen poff present fport).extractLsb' 24 8).toNat = plen ∧
      ((rxLayoutWord plen poff present fport).extractLsb' 16 8).toNat = poff ∧
      (rxLayoutWord plen poff present fport).extractLsb' 9 7 = 0 ∧
      (rxLayoutWord plen poff present fport).getLsbD 8 = present ∧
      (rxLayoutWord plen poff present fport).extractLsb' 0 8 = fport := by
  have h24 : (rxLayoutWord plen poff present fport).extractLsb' 24 8 = BitVec.ofNat 8 plen := by
    apply BitVec.eq_of_getLsbD_eq
    intro i hi
    interval_cases i <;> simp [rxLayoutWord, place, flag]
  have h16 : (rxLayoutWord plen poff present fport).extractLsb' 16 8 = BitVec.ofNat 8 poff := by
    apply BitVec.eq_of_getLsbD_eq
    intro i hi
    interval_cases i <;> simp [rxLayoutWord, place, flag]
  refine ⟨by rw [h24, BitVec.toNat_ofNat]; omega, by rw [h16, BitVec.toNat_ofNat]; omega, ?_,
    by simp [rxLayoutWord, place, flag], ?_⟩ <;>
  · apply BitVec.eq_of_getLsbD_eq
    intro i hi
    interval_cases i <;> simp [rxLayoutWord, place, flag]

/-- Everything PARSE can do from its FOpts check on (R230, R231). -/
theorem parseRest_next {n : Nat} {fctrl : Byte} {fcnt : BitVec 16} {s t : State}
    (h : parseRest n fctrl fcnt s = .next t) :
    ((n < afterFopts fctrl ∨ n = afterFopts fctrl + 1) ∧ t = s.finish .size) ∨
    (n = afterFopts fctrl ∧
      t = State.finish { s with rxLayout := rxLayoutWord 0 (afterFopts fctrl) false 0 } .ok) ∨
    (afterFopts fctrl + 1 < n ∧ ∃ fport data, readByte s.buf (afterFopts fctrl) = some fport ∧
      readBytes s.buf (afterFopts fctrl + 1) (n - (afterFopts fctrl + 1)) = some data ∧
      t = (State.memWrite { s with rxLayout := rxLayoutWord (n - (afterFopts fctrl + 1)) (afterFopts fctrl + 1) true fport }
        (afterFopts fctrl + 1) (cryptBytes (s.key .appSKey) .downlink s.devaddr (fcnt.setWidth 32) data)).finish .ok) := by
  unfold parseRest at h
  split at h
  · exact .inl ⟨.inl ‹_›, endCommand_next.1 h⟩
  · split at h
    · exact .inr (.inl ⟨‹_›, endCommand_next.1 h⟩)
    · split at h
      · exact .inl ⟨.inr ‹_›, endCommand_next.1 h⟩
      · obtain ⟨fport, hf, h⟩ := withByte_next.1 h
        obtain ⟨data, hd, h⟩ := withBytes_next.1 h
        exact .inr (.inr ⟨by omega, fport, data, hf, hd, endCommand_next.1 h⟩)

/-- Everything PARSE can do: an error before any effect, or the header recorded and the rest. -/
theorem execParse_next {len : Byte} {s t : State} (h : execParse len s = .next t) :
    (∃ c, c ≠ .ok ∧ firstError (parseChecks len s) = some c ∧ t = s.finish c) ∨
    (firstError (parseChecks len s) = none ∧ ∃ mhdr addr fctrl fcnt, readByte s.buf 0 = some mhdr ∧
      readBytes s.buf 1 4 = some addr ∧ readByte s.buf 5 = some fctrl ∧ readBytes s.buf 6 2 = some fcnt ∧
      parseRest len.toNat fctrl (fcntOf fcnt) (s.recordHeader mhdr (wordOfLE addr) fctrl (fcntOf fcnt)) = .next t) := by
  rcases runChecked_next.1 h with ⟨c, hc, rfl⟩ | ⟨hf, hb⟩
  · refine .inl ⟨c, ?_, hc, rfl⟩
    have := firstError_mem hc
    rintro rfl
    simp [parseChecks] at this
  · obtain ⟨mhdr, hm, hb⟩ := withByte_next.1 hb
    obtain ⟨addr, ha, hb⟩ := withBytes_next.1 hb
    obtain ⟨fctrl, hc, hb⟩ := withByte_next.1 hb
    obtain ⟨fcnt, hn, hb⟩ := withBytes_next.1 hb
    exact .inr ⟨hf, mhdr, addr, fctrl, fcnt, hm, ha, hc, hn, hb⟩

/-! ### ADMIT -/

/-- Everything ADMIT can do: an error with no other effect, or RESULT written. -/
theorem execAdmit_next {len : Byte} {s t : State} (h : execAdmit len s = .next t) :
    (∃ c, c ≠ .ok ∧ t = s.finish c) ∨ ∃ fcnt, readBytes s.buf 6 2 = some fcnt ∧
      t = (s.setResult (s.admits (fcntOf fcnt)) 0).finish .ok := by
  rcases runChecked_next.1 h with ⟨c, hc, rfl⟩ | ⟨-, hb⟩
  · refine .inl ⟨c, ?_, rfl⟩
    have := firstError_mem hc
    rintro rfl
    simp [admitChecks] at this
  · obtain ⟨fcnt, hf, hb⟩ := withBytes_next.1 hb
    exact .inr ⟨fcnt, hf, endCommand_next.1 hb⟩

end Sys2Proof.Machine
end

