-- ==== Sys2Proof/Laws/PerInstr.lean ====
section
/-! SUPPORT. Statements made once for each command: family TableMatch says that the encoding of a command lies in its own
row of spec/opcode_table.json. -/

namespace Sys2Proof.Laws

/-- The command word has the row's fixed bits: word AND mask = match (R119). -/
def TableMatch.Statement (i : Instr) : Prop := encode i &&& i.rowMask = i.rowMatch

/-- Fields laid out by `pack` under the mask of the primitive commands. -/
theorem pack_primitive_mask (len off : Byte) (dir : BitVec 1) (ksel : BitVec 2) (op : BitVec 4) :
    pack 0 len off dir ksel op &&& 0xFF00008F = op.setWidth 32 := by
  apply BitVec.eq_of_getLsbD_eq
  intro i hi
  interval_cases i <;> simp [pack, place]

/-- Fields laid out by `pack` under the mask of BUILD. -/
theorem pack_build_mask (mtype : BitVec 3) (len off : Byte) (op : BitVec 4) :
    pack mtype len off 0 0 op &&& 0xF80000FF = op.setWidth 32 := by
  apply BitVec.eq_of_getLsbD_eq
  intro i hi
  interval_cases i <;> simp [pack, place]

/-- Fields laid out by `pack` under the mask of the receive commands. -/
theorem pack_frame_mask (len : Byte) (op : BitVec 4) : pack 0 len 0 0 0 op &&& 0xFF00FFFF = op.setWidth 32 := by
  apply BitVec.eq_of_getLsbD_eq
  intro i hi
  interval_cases i <;> simp [pack, place]

theorem TableMatch.mic (ksel : KSel) (dir : Dir) (off len : Byte) : Statement (.mic ksel dir off len) :=
  pack_primitive_mask len off dir.num ksel.num 1

theorem TableMatch.verify (ksel : KSel) (dir : Dir) (off len : Byte) : Statement (.verify ksel dir off len) :=
  pack_primitive_mask len off dir.num ksel.num 2

theorem TableMatch.crypt (ksel : KSel) (dir : Dir) (off len : Byte) : Statement (.crypt ksel dir off len) :=
  pack_primitive_mask len off dir.num ksel.num 3

theorem TableMatch.build (off len : Byte) (mtype : MType) : Statement (.build off len mtype) :=
  pack_build_mask mtype.num len off 4

theorem TableMatch.validate (len : Byte) : Statement (.validate len) := pack_frame_mask len 5

theorem TableMatch.parse (len : Byte) : Statement (.parse len) := pack_frame_mask len 6

theorem TableMatch.admitFrame (len : Byte) : Statement (.admitFrame len) := pack_frame_mask len 7

end Sys2Proof.Laws
end

