-- ==== Sys2Proof/Laws/Step.lean ====
section
/-! SUPPORT. Everything a step can do: the engine's step, a bus access, or RESET_IN. -/

namespace Sys2Proof.Machine

/-! ### Bus accesses -/

/-- BLOCK_BASE is a multiple of 0x200 (R14). -/
theorem blockBase_aligned : Config.blockBase % 0x200 = 0 := by
  simp [Config.blockBase, Config.windowSize]

/-- The offset of an address inside the window (R80). -/
theorem windowOffset_base {off : Nat} (h : off < Config.windowSize) :
    windowOffset (Config.blockBase + off) = some off := by
  unfold windowOffset
  rw [if_pos ⟨Nat.le_add_right _ _, by omega⟩, Nat.add_sub_cancel_left]

/-- An offset the window answers is below its size (R80). -/
theorem windowOffset_lt {addr off : Nat} (h : windowOffset addr = some off) :
    off < Config.windowSize ∧ addr = Config.blockBase + off := by
  unfold windowOffset at h
  split at h
  · cases h; omega
  · cases h

/-- A supported access at an offset of the window. -/
theorem withOffset_base {off size : Nat} (h : off < Config.windowSize) (hs : supported off size = true) (s : State)
    (body : Nat → Result) : withOffset (Config.blockBase + off) size s body = body off := by
  simp [withOffset, windowOffset_base h, hs]

/-- Everything an access's address check can do where the run goes on. -/
theorem withOffset_next {addr size : Nat} {s t : State} {body : Nat → Result}
    (h : withOffset addr size s body = .next t) :
    (windowOffset addr = none ∧ t = { s with reply := .noAnswer }) ∨
    ∃ off, windowOffset addr = some off ∧ supported off size = true ∧ body off = .next t := by
  unfold withOffset at h
  split at h
  · rename_i hw; cases h; exact .inl ⟨hw, rfl⟩
  · rename_i off hw
    split at h
    · rename_i hs; exact .inr ⟨off, hw, hs, h⟩
    · cases h

/-- Everything a host read can do: it changes the reply and the draw counter alone (R88). -/
theorem busRead_next {addr size : Nat} {s t : State} (h : busRead addr size s = .next t) :
    ∃ r d, t = { s with reply := r, draws := d } := by
  rcases withOffset_next h with ⟨-, rfl⟩ | ⟨off, -, -, hb⟩
  · exact ⟨.noAnswer, s.draws, rfl⟩
  · unfold readAt at hb
    split at hb
    · unfold readRegister at hb
      split at hb <;> cases hb <;> exact ⟨_, _, rfl⟩
    · unfold readBuffer at hb
      split at hb
      · cases hb; exact ⟨_, _, rfl⟩
      · split at hb <;> cases hb
        exact ⟨_, _, rfl⟩

/-- Everything a host write can do: nothing (no answer), a dropped write, a register write, or a buffer write. -/
theorem busWrite_next {addr size : Nat} {v : Word} {s t : State} (h : busWrite addr size v s = .next t) :
    t = { s with reply := .noAnswer } ∨
    ∃ off u, windowOffset addr = some off ∧ supported off size = true ∧ t = { u with reply := .written } ∧
      ((s.busy = true ∧ u = s.dropBusy) ∨
        (off < Config.bufOffset ∧ (s.busy = true → (regAt off).writableWhileBusy = true) ∧ u = s.writeReg (regAt off) v) ∨
        (Config.bufOffset ≤ off ∧ s.busy = false ∧ u = s.memWrite (off - Config.bufOffset) ((le32 v).take size))) := by
  rcases withOffset_next h with ⟨-, rfl⟩ | ⟨off, hw, hs, hb⟩
  · exact .inl rfl
  · right
    unfold writeAt at hb
    split at hb
    · rename_i ho
      unfold writeRegister at hb
      split at hb <;> rename_i hc
      · cases hb
        exact ⟨off, _, hw, hs, rfl, .inl ⟨by simp_all, rfl⟩⟩
      · cases hb
        refine ⟨off, _, hw, hs, rfl, .inr (.inl ⟨ho, fun hb => ?_, rfl⟩)⟩
        simpa [hb] using hc
    · rename_i ho
      unfold writeBuffer at hb
      split at hb <;> rename_i hc
      · cases hb
        exact ⟨off, _, hw, hs, rfl, .inl ⟨hc, rfl⟩⟩
      · cases hb
        exact ⟨off, _, hw, hs, rfl, .inr (.inr ⟨by omega, by simpa using hc, rfl⟩)⟩

/-- A supported buffer access stays inside the buffer (R82). -/
theorem supported_buffer {off size : Nat} (h : supported off size = true) (ho : Config.bufOffset ≤ off)
    (hw : off < Config.windowSize) : size ≤ 4 ∧ off - Config.bufOffset + size ≤ Config.bufSize := by
  unfold supported at h
  rw [if_neg (by omega)] at h
  simp only [Bool.and_eq_true, Bool.or_eq_true, beq_iff_eq] at h
  simp only [Config.bufOffset, Config.windowSize, Config.bufSize] at *
  obtain ⟨(rfl | rfl) | rfl, h⟩ := h <;> omega

/-! ### The registers of the window (R32) -/

/-- The offset of each key word (R59). -/
theorem regAt_key (k : KeySlot) (w : Fin 4) : regAt (0x050 + 16 * k.num.toNat + 4 * w.val) = .key k w := by
  cases k <;> revert w <;> decide

/-- The lock covers DEVADDR and every key offset (R36). -/
theorem regAt_locked {off : Nat} (h : off = 0x014 ∨ (0x050 ≤ off ∧ off < 0x080 ∧ off % 4 = 0)) :
    regAt off = .devaddr ∨ ∃ k w, regAt off = .key k w := by
  rcases h with rfl | ⟨h1, h2, h3⟩
  · exact .inl rfl
  · obtain ⟨n, rfl⟩ : ∃ n, off = 4 * n := ⟨off / 4, by omega⟩
    have hn : 20 ≤ n := by omega
    have hn' : n < 32 := by omega
    right
    interval_cases n <;> exact ⟨_, _, rfl⟩

/-- The only offsets whose writes take effect while BUSY = 1 are those of CTRL and STATUS (R93). -/
theorem regAt_writableWhileBusy {off : Nat} (h4 : off % 4 = 0) (h : off < 0x100) :
    (regAt off).writableWhileBusy = true ↔ off = 0x004 ∨ off = 0x008 := by
  obtain ⟨n, rfl⟩ : ∃ n, off = 4 * n := ⟨off / 4, by omega⟩
  have all : ∀ n : Fin 64, (regAt (4 * n.val)).writableWhileBusy = true ↔ 4 * n.val = 0x004 ∨ 4 * n.val = 0x008 := by decide
  exact all ⟨n, by omega⟩

/-- SESS is at 0x010 alone. -/
theorem regAt_eq_sess {off : Nat} (h : regAt off = .sess) : off = 0x010 := by
  unfold regAt at h
  split at h
  all_goals first
    | rfl
    | cases h
    | (unfold keyRegAt at h
       split at h
       · cases h
       · split at h <;> cases h)

/-- A register read while BUSY = 0. -/
theorem readAt_idle {off size : Nat} {s : State} (hb : s.busy = false) (ho : off < 0x100) :
    readAt off size s = answer s (s.readReg (regAt off)) := by
  simp [readAt, readRegister, hb, ho]

/-- A read of a register that is defined while BUSY = 1 too. -/
theorem readAt_defined {off size : Nat} (s : State) (ho : off < 0x100) (hd : (regAt off).definedWhileBusy = true) :
    readAt off size s = answer s (s.readReg (regAt off)) := by
  simp [readAt, readRegister, hd, ho]

/-- A register write while BUSY = 0 (R94). -/
theorem writeAt_idle {off size : Nat} (v : Word) {s : State} (hb : s.busy = false) (ho : off < 0x100) :
    writeAt off size v s = written (s.writeReg (regAt off) v) := by
  simp [writeAt, writeRegister, hb, ho]

/-- A write to CTRL takes effect, BUSY or not (R93). -/
theorem writeAt_ctrl (size : Nat) (v : Word) (s : State) : writeAt 0x004 size v s = written (s.writeCtrl v) := by
  simp [writeAt, writeRegister, regAt, Reg.writableWhileBusy, State.writeReg, Config.bufOffset]

/-- A write to STATUS takes effect, BUSY or not (R93). -/
theorem writeAt_status (size : Nat) (v : Word) (s : State) : writeAt 0x008 size v s = written (s.writeStatus v) := by
  simp [writeAt, writeRegister, regAt, Reg.writableWhileBusy, State.writeReg, Config.bufOffset]

/-- Only a write to SESS changes the SESS flags (R67). -/
theorem writeReg_sess (s : State) {r : Reg} (v : Word) (h : r ≠ .sess) :
    (s.writeReg r v).awaitAck = s.awaitAck ∧ (s.writeReg r v).ackPending = s.ackPending := by
  cases r with
  | sess => exact absurd rfl h
  | key k w => cases k <;> simp [State.writeReg, State.writeKey]
  | _ => simp [State.writeReg]

/-! ### The engine and the step -/

/-- Everything the engine's step can do (R251). -/
theorem engineStep_next {s t : State} (h : engineStep s = .next t) :
    (s.pending = none ∧ t = s) ∨
    ∃ w, s.pending = some w ∧
      ((∃ i, decode w = .ok i ∧ exec i s = .next t) ∨
        (∃ e, decode w = .error e ∧ t = s.finish (if s.en then .opcode else .state))) := by
  unfold engineStep at h
  split at h
  · rename_i hp; cases h; exact .inl ⟨hp, rfl⟩
  · rename_i w hp
    refine .inr ⟨w, hp, ?_⟩
    unfold runWord at h
    split at h
    · rename_i i hi; exact .inl ⟨i, hi, h⟩
    · rename_i e he; exact .inr ⟨e, he, rejectWord_next.1 h⟩

/-- Everything a step can do: the engine's step where nothing is scheduled, else the next move. -/
theorem step_next {s t : State} (h : step s = .next t) :
    (s.moves = [] ∧ engineStep s = .next t) ∨
    ∃ m rest, s.moves = m :: rest ∧ runMove m { s with moves := rest } = .next t := by
  unfold step takeMove at h
  split at h
  · rename_i hm; exact .inl ⟨hm, h⟩
  · rename_i m rest hm; exact .inr ⟨m, rest, hm, h⟩

/-- A step that has a move to take. -/
theorem step_cons {s : State} {m : Move} {rest : List Move} (h : s.moves = m :: rest) :
    step s = runMove m { s with moves := rest } := by
  simp [step, takeMove, h]

/-- A step that reads at a supported offset of the window. -/
theorem step_read {s : State} {off size : Nat} {rest : List Move}
    (h : s.moves = .read (Config.blockBase + off) size :: rest) (hw : off < Config.windowSize)
    (hs : supported off size = true) : step s = readAt off size { s with moves := rest } := by
  rw [step_cons h]
  exact withOffset_base hw hs _ _

/-- A step that writes at a supported offset of the window. -/
theorem step_write {s : State} {off size : Nat} {v : Word} {rest : List Move}
    (h : s.moves = .write (Config.blockBase + off) size v :: rest) (hw : off < Config.windowSize)
    (hs : supported off size = true) : step s = writeAt off size v { s with moves := rest } := by
  rw [step_cons h]
  exact withOffset_base hw hs _ _

/-- A step with nothing scheduled. -/
theorem step_nil {s : State} (h : s.moves = []) : step s = engineStep s := by
  simp [step, takeMove, h]

end Sys2Proof.Machine
end

