-- ==== Sys2Proof/Tests/Slice0.lean ====
section
/-! SUPPORT. Tests against the values of spec/95_test_vectors.md, and for every statement with hypotheses a witness that
meets them. A test named after a vector takes its expected values from that row of the spec. -/

namespace Sys2Proof.Tests

-- One theorem at a time: the kernel evaluations below would each hold a thread.
set_option Elab.async false

open Sys2Proof Sys2Proof.Machine Sys2Proof.Claims

/-! ### Small states -/

/-- A slot whose four words have been written. -/
def loaded (v₀ v₁ v₂ v₃ : Word) : KeyRegs := ⟨⟨v₀, true⟩, ⟨v₁, true⟩, ⟨v₂, true⟩, ⟨v₃, true⟩⟩

/-- The keys of 95_test_vectors.md: Z, NWK and APPS, as the words LDKEY writes (P1, P2). -/
def keyZ : KeyRegs := loaded 0 0 0 0
def keyNwk : KeyRegs := loaded 0x03020100 0x07060504 0x0B0A0908 0x0F0E0D0C
def keyApps : KeyRegs := loaded 0xC3D2E1F0 0x8796A5B4 0x4B5A6978 0x0F1E2D3C

/-- S0 with KEY_0, KEY_1 and the buffer bytes from offset `k` on. -/
def s0 (k₀ k₁ : KeyRegs) (k : Nat) (bytes : List Byte) : State :=
  { State.reset with en := true, devaddr := 0x01020304, nwkSKey := k₀, appSKey := k₁, buf := writeBytes [] k bytes }

/-- The state of V-MIC-1: OP_DEVADDR = DA and the 11 bytes of the built frame without its MIC, at offset `k`. -/
def sMic (k : Nat) : State :=
  { s0 keyZ keyZ k [0x40, 0x04, 0x03, 0x02, 0x01, 0x00, 0x00, 0x00, 0x01, 0xFE, 0xAC] with opDevaddr := 0x01020304 }

/-- The state of V-CRY-1: OP_DEVADDR = DA and AA BB at offset `k`. -/
def sCrypt (k : Nat) : State := { s0 keyZ keyZ k [0xAA, 0xBB] with opDevaddr := 0x01020304 }

/-- The state of V-BLD-1: FPORT = 1 and the payload AA BB at 0x20. -/
def sBuild : State := { s0 keyZ keyZ 0x20 [0xAA, 0xBB] with fport := 1 }

/-- V-BLD-8: twenty bytes that end the buffer. -/
def sBuildEnd : State := s0 keyZ keyZ 236 (List.replicate 20 0x55)

/-- The downlink frames F1 and F3, and the frames of V-PAR-6 to V-PAR-8. -/
def f1 : List Byte := [0x60, 0x04, 0x03, 0x02, 0x01, 0x20, 0x05, 0x00, 0x01, 0x9F, 0xCD, 0x59, 0x69, 0x5A, 0xEE]
def f3 : List Byte := [0x60, 0x04, 0x03, 0x02, 0x01, 0x00, 0x09, 0x00, 0xDF, 0xB8, 0xB2, 0x8C]
def par6 : List Byte := [0x60, 0x04, 0x03, 0x02, 0x01, 0x2F, 0x05, 0x00, 0x01, 0x02]
def par7 : List Byte := [0x60, 0x04, 0x03, 0x02, 0x01, 0x00, 0x05, 0x00, 0x01]
def par8 : List Byte := [0x60, 0x04, 0x03, 0x02, 0x01, 0x02, 0x05, 0x00, 0xAA, 0xBB]

/-- The device of section 8 with a frame in the buffer and AWAIT_ACK set. -/
def sFrame (f : List Byte) : State := { s0 keyNwk keyApps 0 f with awaitAck := true }

/-- `s` with a command launched. -/
def busyWith (w : Word) (s : State) : State := s.launch w

/-- `s` with moves to come. -/
def before (m : List Move) (s : State) : State := { s with moves := m }

/-- Whether a run goes on, to a state with `p`. -/
def after (o : Result) (p : State → Bool) : Bool :=
  match o with
  | .next t => p t
  | .fault _ => false
  | .refused _ => false

theorem after_next {o : Result} {p : State → Bool} (h : after o p = true) : ∃ t, o = .next t ∧ p t = true := by
  cases o with
  | next t => exact ⟨t, rfl, h⟩
  | fault f => cases h
  | refused r => cases h

/-- A command that ends with code `c`. -/
theorem ends {o : Result} (c : BitVec 4) (h : after o (fun t => t.errcode == c) = true) :
    ∃ t, o = .next t ∧ t.errcode = c := by
  obtain ⟨t, ht, hc⟩ := after_next h
  exact ⟨t, ht, by simpa using hc⟩

/-! ### Well-formedness and decoding (30_encoding.md) -/

theorem test_wellFormed_mic : (Instr.mic .noSlot .uplink 0 11).wellFormed = false := by decide
theorem test_wellFormed_verify : (Instr.verify .noSlot .uplink 0 11).wellFormed = false := by decide
theorem test_wellFormed_crypt : (Instr.crypt .noSlot .uplink 0 2).wellFormed = false := by decide
theorem test_wellFormed_build : (Instr.build 0 2 .unconfirmedDataDown).wellFormed = false := by decide
theorem test_wellFormed_ok : (Instr.build 0 2 .confirmedDataUp).wellFormed = true ∧
    (Instr.crypt (.slot .appKey) .uplink 0 2).wellFormed = true := by decide

/-- MIC key=APP, dir=DOWN, off=0x10, len=16: mtype 000, len 00010000, off 00010000, 0, dir 1, ksel 10, op 0001. -/
theorem test_decode_mic : decode 0b00000_000_00010000_00010000_0_1_10_0001 = .ok (.mic (.slot .appKey) .downlink 0x10 16) ∧
    decode 0x000B0001 = .ok (.mic (.slot .nwkSKey) .uplink 0 11) := by decide
/-- VERIFY key=NWK, dir=DOWN, off=0, len=11. -/
theorem test_decode_verify : decode 0b00000_000_00001011_00000000_0_1_00_0010 = .ok (.verify (.slot .nwkSKey) .downlink 0 11) ∧
    decode 0x000B0002 = .ok (.verify (.slot .nwkSKey) .uplink 0 11) := by decide
/-- CRYPT key=APPS, dir=DOWN, off=9, len=2. -/
theorem test_decode_crypt : decode 0b00000_000_00000010_00001001_0_1_01_0011 = .ok (.crypt (.slot .appSKey) .downlink 9 2) ∧
    decode 0x00020013 = .ok (.crypt (.slot .appSKey) .uplink 0 2) := by decide
/-- BUILD mtype=CONF, off=0x40, len=5. -/
theorem test_decode_build : decode 0b00000_100_00000101_01000000_0_0_00_0100 = .ok (.build 0x40 5 .confirmedDataUp) ∧
    decode 0x02022004 = .ok (.build 0x20 2 .unconfirmedDataUp) := by decide
/-- VALIDATE len=15, PARSE len=11, ADMIT len=15. -/
theorem test_decode_frame : decode 0b00000_000_00001111_00000000_0_0_00_0101 = .ok (.validate 15) ∧
    decode 0b00000_000_00001011_00000000_0_0_00_0110 = .ok (.parse 11) ∧
    decode 0b00000_000_00001111_00000000_0_0_00_0111 = .ok (.admitFrame 15) := by decide
/-- The corner cases of section 3: reserved opcodes, reserved bits, must-be-0 fields. -/
theorem test_decode_rejects : decode 0x00000000 = .error .reservedOpcode ∧ decode 0x00000008 = .error .reservedOpcode ∧
    decode 0x0000000F = .error .reservedOpcode ∧ decode 0x00000081 = .error .reservedBits ∧
    decode 0x0A000004 = .error .reservedBits ∧ decode 0x01000001 = .error .mustBeZero ∧
    decode 0x02010014 = .error .mustBeZero ∧ decode 0x02010044 = .error .mustBeZero ∧
    decode 0x00000015 = .error .mustBeZero ∧ decode 0x00000105 = .error .mustBeZero := by decide
/-- KSEL = 3 and MTYPE = 3 are read, and are not well formed. -/
theorem test_decode_illFormed : decode 0x00000031 = .ok (.mic .noSlot .uplink 0 0) ∧
    decode 0x03010004 = .ok (.build 0 1 .unconfirmedDataDown) := by decide

/-! ### Known answers -/

/-- V-AES-2 and V-AES-3. -/
theorem test_aes : aes 0 0 = 0x66E94BD4EF8A2C3B884CFA59CA342B2E ∧
    (roundKeys 0x000102030405060708090A0B0C0D0E0F)[10]? = some 0x13111D7FE3944A17F307A78B4D2B30C5 := by decide +kernel
/-- V-CMAC-1. -/
theorem test_subkeys : subkey1 0x2B7E151628AED2A6ABF7158809CF4F3C = 0xFBEED618357133667C85E08F7236A8DE ∧
    subkey2 0x2B7E151628AED2A6ABF7158809CF4F3C = 0xF7DDAC306AE266CCF90BC11EE46D513B := by decide +kernel
/-- V-CMAC-2, the empty message. -/
theorem test_cmac_empty : cmac 0x2B7E151628AED2A6ABF7158809CF4F3C [] = 0xBB1D6929E95937287FA37D129B756746 := by decide +kernel
/-- V-CMAC-4, a message that ends in a part of a block. -/
theorem test_cmac_part : cmac 0x2B7E151628AED2A6ABF7158809CF4F3C
    (blockBytes 0x6BC1BEE22E409F96E93D7E117393172A ++ blockBytes 0xAE2D8A571E03AC9C9EB76FAC45AF8E51 ++
      [0x30, 0xC8, 0x1C, 0x46, 0xA3, 0x5C, 0xE4, 0x11]) = 0xDFA66747DE9AE63030CA32611497C827 := by decide +kernel
/-- The instances of V-SRC-0. -/
theorem test_blocks : b0 .downlink 0xDEADBEEF 0x00010002 16 =
      [0x49, 0, 0, 0, 0, 1, 0xEF, 0xBE, 0xAD, 0xDE, 0x02, 0x00, 0x01, 0x00, 0, 0x10] ∧
    aBlock .uplink 0x01020304 0 1 = [0x01, 0, 0, 0, 0, 0, 0x04, 0x03, 0x02, 0x01, 0, 0, 0, 0, 0, 1] := by decide

/-- V-MIC-1. -/
theorem test_mic : after (exec (.mic (.slot .nwkSKey) .uplink 0 11) (sMic 0))
    (fun t => t.errcode == 0 && t.mic == 0xD02366AD) = true := by decide +kernel
/-- V-VER-1. -/
theorem test_verify_equal : after (exec (.verify (.slot .nwkSKey) .uplink 0 11) { sMic 0 with micIn := 0xD02366AD })
    (fun t => t.resultWord == 1) = true := by decide +kernel
/-- V-VER-3: the direction changes B0, and a mismatch is a result. -/
theorem test_verify_downlink : after (exec (.verify (.slot .nwkSKey) .downlink 0 11) { sMic 0 with micIn := 0xD02366AC })
    (fun t => t.resultWord == 0 && t.mic == 0x3DCC0790) = true := by decide +kernel
/-- V-CRY-1. -/
theorem test_crypt : after (exec (.crypt (.slot .appSKey) .uplink 0 2) (sCrypt 0))
    (fun t => readBytes t.buf 0 2 == some [0xFE, 0xAC]) = true := by decide +kernel
/-- V-CRY-3: the last byte is of the second keystream block. -/
theorem test_crypt_second_block : after (exec (.crypt (.slot .appSKey) .uplink 0x20 0x11)
    { s0 keyZ keyZ 0x20 (List.replicate 17 0) with opDevaddr := 0x01020304 })
    (fun t => readBytes t.buf 0x2F 2 == some [0x88, 0x36]) = true := by decide +kernel
/-- V-BLD-1, the source's scenario. -/
theorem test_build : after (exec (.build 0x20 2 .unconfirmedDataUp) sBuild) (fun t => t.flen == 15 &&
    readBytes t.buf 0 15 == some [0x40, 4, 3, 2, 1, 0, 0, 0, 1, 0xFE, 0xAC, 0xAD, 0x66, 0x23, 0xD0]) = true := by
  decide +kernel
/-- V-BLD-3: a confirmed frame that acknowledges. -/
theorem test_build_confirmed : after (exec (.build 0x40 5 .confirmedDataUp)
    { s0 keyNwk keyApps 0x40 [0x68, 0x65, 0x6C, 0x6C, 0x6F] with fcntUp := 0x00012345, fport := 0x0A, ackPending := true })
    (fun t => t.sessWord == 1 && readBytes t.buf 0 18 == some [0x80, 4, 3, 2, 1, 0x20, 0x45, 0x23, 0x0A,
      0x3D, 0x30, 0x79, 0xFF, 0xD7, 0xB4, 0xD0, 0xA9, 0x4B]) = true := by decide +kernel
/-- V-VAL-1. -/
theorem test_validate : after (exec (.validate 15) (sFrame f1))
    (fun t => t.resultWord == 1 && t.flen == 11 && t.mic == 0xEE5A6959) = true := by decide +kernel
/-- V-VAL-3: an uplink type is discarded for its type. -/
theorem test_validate_mtype : after (exec (.validate 15) (sFrame (0x40 :: f1.drop 1)))
    (fun t => t.resultWord == 4 && t.errcode == 0) = true := by decide +kernel
/-- V-PAR-1. -/
theorem test_parse : after (exec (.parse 11) (sFrame f1)) (fun t => t.rxHdr == 0x00052060 && t.rxLayout == 0x02090101 &&
    !t.awaitAck && readBytes t.buf 9 4 == some [0x48, 0x49, 0x59, 0x69]) = true := by decide +kernel
/-- V-PAR-6: the partial effects of an ended PARSE. -/
theorem test_parse_partial : after (exec (.parse 10) (sFrame par6)) (fun t => t.errcode == 6 && t.rxHdr == 0x00052F60 &&
    t.rxDevaddr == 0x01020304 && t.rxLayout == 0 && !t.awaitAck) = true := by decide +kernel
/-- V-ADM-3 and V-ADM-2: the low 16 bits of FCNT_DOWN are compared. -/
theorem test_admit : after (exec (.admitFrame 15) { sFrame f1 with fcntDown := 0x00010005 }) (fun t => t.resultWord == 1) = true ∧
    after (exec (.admitFrame 15) { sFrame f1 with fcntDown := 6 }) (fun t => t.resultWord == 0) = true := by decide +kernel
/-- V-ADM-6: a header too short. -/
theorem test_admit_short : after (exec (.admitFrame 7) (sFrame f1)) (fun t => t.errcode == 6) = true := by decide +kernel
/-- V-HAZ-3: the configuration lock, and 95 section 11's STATUS after it. -/
theorem test_lock : after (writeAt 0x014 4 5 (s0 keyZ keyZ 0 []))
    (fun t => t.devaddr == 0x01020304 && t.statusWord == 0x00030010) = true := by decide +kernel
/-- V-HAZ-1 and V-HAZ-2: a dropped write, then the abort. -/
theorem test_abort : after (writeAt 0x004 4 0 { busyWith 0x00040001 (s0 keyZ keyZ 0 [0, 0, 0, 0]) with werr := true })
    (fun t => t.statusWord == 0x00030726 && t.mic == 0) = true := by decide +kernel

/-! ### A witness for every statement with hypotheses: encoding and the step -/

theorem witness_AcceptedWordsEncodeBack : decode 0x00101061 = .ok (.mic (.slot .appKey) .downlink 0x10 16) ∧
    encode (.mic (.slot .appKey) .downlink 0x10 16) = 0x00101061 := by decide

theorem witness_StrictMasksSelectRows :
    ((0x00101061 : Word) &&& 0xFF00008F = 1 ∧ kselField 0x00101061 ≠ 3) ∧
    ((0x04054004 : Word) &&& 0xF80000FF = 4 ∧ mtypeField 0x04054004 = 4) ∧ ((0x000F0005 : Word) &&& 0xFF00FFFF = 5) ∧
    decode 0x000F0005 = .ok (.validate 15) := by decide

theorem witness_StepRunsDecodedCommand :
    (busyWith 0x000B0001 (sMic 0)).pending = some 0x000B0001 ∧
    decode 0x000B0001 = .ok (.mic (.slot .nwkSKey) .uplink 0 11) ∧ (busyWith 0x000B0001 (sMic 0)).moves = [] ∧
    (before [.engine, .reset] (busyWith 0x000B0001 (sMic 0))).moves = .engine :: [.reset] ∧
    (before [.engine, .reset] (busyWith 0x000B0001 (sMic 0))).pending = some 0x000B0001 := by
  refine ⟨rfl, by decide, rfl, rfl, rfl⟩

theorem witness_PlacedWordRunsNext : decodeTableWord 32 0x000F0005 = some (.validate 15) ∧
    decodeTableWord 16 0x7 = some (.admitFrame 0) := by decide

theorem witness_EngineStepEndsTheCommand :
    (∃ t, engineStep State.reset = .next t ∧ State.reset.busy = false) ∧
    ∃ t, engineStep (busyWith 0x000F0007 (sFrame f1)) = .next t ∧ (busyWith 0x000F0007 (sFrame f1)).busy = true := by
  refine ⟨⟨_, rfl, rfl⟩, ?_⟩
  obtain ⟨t, ht, -⟩ := ends (o := engineStep (busyWith 0x000F0007 (sFrame f1))) 0 (by decide +kernel)
  exact ⟨t, ht, rfl⟩

/-- Both outcomes occur: ADMIT of a written header, and of an empty buffer. -/
theorem witness_CommandsFaultOnlyOnUnwrittenBytes : (∃ t, exec (.admitFrame 15) (sFrame f1) = .next t ∧ t.errcode = 0) ∧
    exec (.admitFrame 15) (sFrame []) = .fault (.uninitCommand 6 2) :=
  ⟨ends 0 (by decide +kernel), rfl⟩

/-! ### Command errors -/

theorem witness_StoppedBlockEndsInState :
    (busyWith 0x000B0001 State.reset).pending = some 0x000B0001 ∧ (busyWith 0x000B0001 State.reset).en = false ∧
    (busyWith 0x00000000 State.reset).pending = some 0x00000000 ∧ (busyWith 0x00000000 State.reset).en = false := by
  decide

theorem witness_IllegalWordsEndInOpcode :
    (busyWith 0x00000008 (sMic 0)).pending = some 0x00000008 ∧ (busyWith 0x00000008 (sMic 0)).en = true ∧
    (illegalWord 0x00000000 ∧ illegalWord 0x00000008 ∧ illegalWord 0x0000000F ∧ illegalWord 0x00000081 ∧
      illegalWord 0x0A000004 ∧ illegalWord 0x01000001 ∧ illegalWord 0x00000033) ∧
    (illegalWord 0x02010014 ∧ illegalWord 0x02010044 ∧ illegalWord 0x03010004 ∧ illegalWord 0x00000015 ∧
      illegalWord 0x00000046 ∧ illegalWord 0x00000105 ∧ illegalWord 0x02000007) ∧
    ¬ illegalWord 0x000F0007 ∧ ∃ t, engineStep (busyWith 0x000F0007 (sFrame f1)) = .next t ∧ t.errcode = 0 := by
  refine ⟨rfl, rfl, ⟨?_, ?_, ?_, ?_, ?_, ?_, ?_⟩, ⟨?_, ?_, ?_, ?_, ?_, ?_, ?_⟩, ?_, ends 0 (by decide +kernel)⟩ <;>
    unfold illegalWord <;> decide

theorem witness_FirstApplicableErrorIsReported :
    checkOrder.find? (errorApplies State.reset (.build 0xFF 21 .rfu)) = some .state ∧
    checkOrder.find? (errorApplies (s0 keyZ KeyRegs.reset 0 []) (.build 0xFF 21 .rfu)) = some .opcode ∧
    checkOrder.find? (errorApplies (s0 keyZ KeyRegs.reset 0 []) (.build 250 21 .confirmedDataUp)) = some .range ∧
    checkOrder.find? (errorApplies (s0 keyZ KeyRegs.reset 0 []) (.build 235 21 .confirmedDataUp)) = some .length ∧
    checkOrder.find? (errorApplies (s0 keyZ KeyRegs.reset 0 []) (.parse 7)) = some .key ∧
    checkOrder.find? (errorApplies (sFrame f1) (.parse 7)) = some .size ∧
    (checkOrder.find? (errorApplies (sFrame f1) (.admitFrame 8)) = none ∧ ∃ t, exec (.admitFrame 8) (sFrame f1) = .next t ∧ t.errcode = 0) ∧
    (checkOrder.find? (errorApplies (sFrame par7) (.parse 9)) = none ∧
      ∃ t, exec (.parse 9) (sFrame par7) = .next t ∧ t.errcode = 6) := by
  refine ⟨by decide, by decide, by decide, by decide, by decide, by decide, ⟨by decide, ends 0 (by decide +kernel)⟩,
    ⟨by decide, ends 6 (by decide +kernel)⟩⟩

theorem witness_ErrorsArePrecise :
    (∃ t, exec (.crypt (.slot .appKey) .uplink 0 2) (sCrypt 0) = .next t ∧ t.errcode ≠ 0) ∧
    ∃ t, exec (.parse 10) (sFrame par6) = .next t ∧ t.errcode ≠ 0 := by
  obtain ⟨t, ht, h⟩ := ends (o := exec (.crypt (.slot .appKey) .uplink 0 2) (sCrypt 0)) 3 (by decide +kernel)
  obtain ⟨u, hu, h'⟩ := ends (o := exec (.parse 10) (sFrame par6)) 6 (by decide +kernel)
  exact ⟨⟨t, ht, by rw [h]; decide⟩, u, hu, by rw [h']; decide⟩

/-! ### The crypto commands, with regions that end the buffer and the empty region -/

theorem witness_MicWritesTheMic :
    (sMic 0xF5).en = true ∧ (0xF5 : Byte).toNat + (11 : Byte).toNat ≤ 256 ∧ (sMic 0xF5).keyLoaded .nwkSKey = true ∧
    readBytes (sMic 0xF5).buf (0xF5 : Byte).toNat (11 : Byte).toNat =
      some [0x40, 0x04, 0x03, 0x02, 0x01, 0x00, 0x00, 0x00, 0x01, 0xFE, 0xAC] ∧
    readBytes (sMic 0xF5).buf (0xFF : Byte).toNat (0 : Byte).toNat = some [] := by decide

theorem witness_VerifyComparesTheMic :
    (sMic 0xF5).en = true ∧ (0xF5 : Byte).toNat + (11 : Byte).toNat ≤ 256 ∧ (sMic 0xF5).keyLoaded .appSKey = true ∧
    readBytes (sMic 0xF5).buf (0xF5 : Byte).toNat (11 : Byte).toNat =
      some [0x40, 0x04, 0x03, 0x02, 0x01, 0x00, 0x00, 0x00, 0x01, 0xFE, 0xAC] := by decide

theorem witness_CryptTransformsTheRegion :
    (sCrypt 0xFE).en = true ∧ (0xFE : Byte).toNat + (2 : Byte).toNat ≤ 256 ∧ (sCrypt 0xFE).keyLoaded .appSKey = true ∧
    readBytes (sCrypt 0xFE).buf (0xFE : Byte).toNat (2 : Byte).toNat = some [0xAA, 0xBB] ∧
    readBytes (sCrypt 0xFE).buf (0x40 : Byte).toNat (0 : Byte).toNat = some [] := by decide

/-- Two states with the key in different slots and the region at different offsets. -/
theorem witness_MicIsDeterministic :
    ((sMic 0).keyRegs .nwkSKey).bytes = ((sMic 0xF5).keyRegs .appSKey).bytes ∧
    (sMic 0).opDevaddr = (sMic 0xF5).opDevaddr ∧ (sMic 0).opFcnt = (sMic 0xF5).opFcnt ∧
    readBytes (sMic 0).buf (0 : Byte).toNat (11 : Byte).toNat = readBytes (sMic 0xF5).buf (0xF5 : Byte).toNat (11 : Byte).toNat ∧
    (∃ t, exec (.mic (.slot .nwkSKey) .uplink 0 11) (sMic 0) = .next t ∧ t.errcode = 0) ∧
    ∃ t, exec (.mic (.slot .appSKey) .uplink 0xF5 11) (sMic 0xF5) = .next t ∧ t.errcode = 0 := by
  refine ⟨by decide, by decide, by decide, by decide, ends 0 (by decide +kernel), ends 0 (by decide +kernel)⟩

theorem witness_VerifyAgreesWithMic :
    ∃ t, exec (.mic (.slot .nwkSKey) .downlink 0xF5 11) (sMic 0xF5) = .next t ∧ t.errcode = 0 := ends 0 (by decide +kernel)

theorem witness_CryptTwiceRestoresTheBuffer : Memory.wf (sCrypt 0xFE).buf = true ∧
    ∃ t, exec (.crypt (.slot .appSKey) .uplink 0xFE 2) (sCrypt 0xFE) = .next t ∧ t.errcode = 0 :=
  ⟨by decide, ends 0 (by decide +kernel)⟩

/-! ### BUILD: the empty payload, and the longest at the end of the buffer -/

theorem witness_BuildWritesTheFrame :
    (sBuildEnd.en = true ∧ sBuildEnd.keyLoaded .nwkSKey = true ∧ sBuildEnd.keyLoaded .appSKey = true) ∧
    ((236 : Byte).toNat + (20 : Byte).toNat ≤ 256 ∧ (20 : Byte).toNat ≤ 20 ∧
      readBytes sBuildEnd.buf (236 : Byte).toNat (20 : Byte).toNat = some (List.replicate 20 0x55)) ∧
    ((0x20 : Byte).toNat + (0 : Byte).toNat ≤ 256 ∧ (0 : Byte).toNat ≤ 20 ∧
      readBytes sBuildEnd.buf (0x20 : Byte).toNat (0 : Byte).toNat = some []) := by decide

theorem witness_BuildOutputLayout :
    (∃ t, exec (.build 236 20 .confirmedDataUp) sBuildEnd = .next t ∧ t.errcode = 0 ∧ 0 < (20 : Byte).toNat) ∧
    ∃ t, exec (.build 0x20 0 .unconfirmedDataUp) sBuildEnd = .next t ∧ t.errcode = 0 := by
  obtain ⟨t, ht, h⟩ := ends (o := exec (.build 236 20 .confirmedDataUp) sBuildEnd) 0 (by decide +kernel)
  exact ⟨⟨t, ht, h, by decide⟩, ends 0 (by decide +kernel)⟩

theorem witness_BuildThenCryptRecoversPayload :
    (∃ t, exec (.build 0x20 2 .unconfirmedDataUp) sBuild = .next t ∧ t.errcode = 0) ∧
    readBytes sBuild.buf (0x20 : Byte).toNat (2 : Byte).toNat = some [0xAA, 0xBB] ∧ 0 < (2 : Byte).toNat :=
  ⟨ends 0 (by decide +kernel), by decide, by decide⟩

/-! ### VALIDATE, ADMIT, PARSE -/

theorem witness_ValidateDiscardsInOrder :
    ((sFrame f1).en = true ∧ (sFrame f1).keyLoaded .nwkSKey = true ∧ (11 : Byte).toNat < 12 ∧ 12 ≤ (12 : Byte).toNat) ∧
    (readByte (sFrame par6).buf 0 = some 0x60 ∧ (0x60 : Byte).toNat / 32 = 3 ∧ (0x40 : Byte).toNat / 32 ≠ 3 ∧
      (0x40 : Byte).toNat / 32 ≠ 5 ∧ (0xA0 : Byte).toNat / 32 = 5 ∧ readByte (sFrame (0x40 :: f1.drop 1)).buf 0 = some 0x40) ∧
    (readBytes (sFrame f1).buf 1 4 = some [4, 3, 2, 1] ∧ fromLE [4, 3, 2, 1] = (sFrame f1).devaddr.toNat ∧
      fromLE [4, 3, 2, 1] ≠ (State.devaddr { sFrame f1 with devaddr := 0x01020305 }).toNat) ∧
    (readBytes (sFrame f1).buf 6 2 = some [5, 0] ∧ readBytes (sFrame f1).buf 0 (12 - 4) = some (f1.take 8) ∧
      readBytes (sFrame f1).buf (12 - 4) 4 = some [0x01, 0x9F, 0xCD, 0x59] ∧
      mic4 ((sFrame f1).key .nwkSKey) .downlink (sFrame f1).devaddr (BitVec.ofNat 32 (fromLE [5, 0])) (f1.take 8) ≠
        [0x01, 0x9F, 0xCD, 0x59]) := by
  refine ⟨by decide, by decide, by decide, by decide, by decide, by decide, by decide +kernel⟩

/-- V-VAL-7: F3 is accepted at the least length. -/
theorem witness_ValidateAcceptsExactlyGoodFrames :
    ((sFrame f3).en = true ∧ (sFrame f3).keyLoaded .nwkSKey = true ∧ 12 ≤ (12 : Byte).toNat ∧
      readByte (sFrame f3).buf 0 = some 0x60 ∧ (0x60 : Byte).toNat / 32 = 3 ∧
      readBytes (sFrame f3).buf 1 4 = some [4, 3, 2, 1] ∧ fromLE [4, 3, 2, 1] = (sFrame f3).devaddr.toNat) ∧
    (readBytes (sFrame f3).buf 6 2 = some [9, 0] ∧ readBytes (sFrame f3).buf 0 (12 - 4) = some (f3.take 8) ∧
      readBytes (sFrame f3).buf (12 - 4) 4 = some [0xDF, 0xB8, 0xB2, 0x8C] ∧
      mic4 ((sFrame f3).key .nwkSKey) .downlink (sFrame f3).devaddr (BitVec.ofNat 32 (fromLE [9, 0])) (f3.take 8) =
        [0xDF, 0xB8, 0xB2, 0x8C]) ∧
    ∃ t, exec (.validate 12) (sFrame f3) = .next t ∧ t.resultOk = true := by
  refine ⟨by decide, ⟨by decide, by decide, by decide, by decide +kernel⟩, after_next (by decide +kernel)⟩

theorem witness_AdmitComparesCounters :
    (sFrame f1).en = true ∧ 8 ≤ (8 : Byte).toNat ∧ readBytes (sFrame f1).buf 6 2 = some [5, 0] ∧
    (State.fcntDown { sFrame f1 with fcntDown := 0xFFFF }).toNat < 0x10000 ∧
    ∃ t, exec (.admitFrame 8) { sFrame f1 with fcntDown := 0xFFFF } = .next t ∧ t.errcode = 0 :=
  ⟨by decide, by decide, by decide, by decide, ends 0 (by decide +kernel)⟩

/-- F1 trimmed has a 2-byte payload, its first 10 bytes a 1-byte payload; V-PAR-8's FOpts and F3's header end their frames. -/
theorem witness_ParseReportsAndDecrypts :
    ((sFrame f1).en = true ∧ (sFrame f1).keyLoaded .appSKey = true ∧ 8 ≤ (8 : Byte).toNat ∧
      readByte (sFrame f1).buf 0 = some 0x60 ∧ readBytes (sFrame f1).buf 1 4 = some [4, 3, 2, 1] ∧
      readByte (sFrame f1).buf 5 = some 0x20 ∧ readBytes (sFrame f1).buf 6 2 = some [5, 0] ∧ 0 = (0x20 : Byte).toNat % 16) ∧
    (9 + 0 < (10 : Byte).toNat ∧ readByte (sFrame f1).buf (8 + 0) = some 1 ∧
      readBytes (sFrame f1).buf (9 + 0) ((10 : Byte).toNat - (9 + 0)) = some [0x9F]) ∧
    (readByte (sFrame f3).buf 5 = some 0x00 ∧ (8 : Byte).toNat = 8 + (0x00 : Byte).toNat % 16) ∧
    (readByte (sFrame par8).buf 0 = some 0x60 ∧ readBytes (sFrame par8).buf 1 4 = some [4, 3, 2, 1] ∧
      readByte (sFrame par8).buf 5 = some 0x02 ∧ readBytes (sFrame par8).buf 6 2 = some [5, 0] ∧
      (10 : Byte).toNat = 8 + (0x02 : Byte).toNat % 16) := by decide

/-- V-PAR-6 ends at the FOpts check, V-PAR-7 at the FPort check. -/
theorem witness_ParsePartialEffects :
    ((sFrame par6).en = true ∧ (sFrame par6).keyLoaded .appSKey = true ∧ 8 ≤ (10 : Byte).toNat ∧
      readByte (sFrame par6).buf 0 = some 0x60 ∧ readBytes (sFrame par6).buf 1 4 = some [4, 3, 2, 1] ∧
      readByte (sFrame par6).buf 5 = some 0x2F ∧ readBytes (sFrame par6).buf 6 2 = some [5, 0] ∧
      (10 : Byte).toNat < 8 + (0x2F : Byte).toNat % 16 ∧ (22 : Byte).toNat < 8 + (0x2F : Byte).toNat % 16) ∧
    ((sFrame par7).en = true ∧ (sFrame par7).keyLoaded .appSKey = true ∧ 8 ≤ (9 : Byte).toNat ∧
      readByte (sFrame par7).buf 0 = some 0x60 ∧ readBytes (sFrame par7).buf 1 4 = some [4, 3, 2, 1] ∧
      readByte (sFrame par7).buf 5 = some 0x00 ∧ readBytes (sFrame par7).buf 6 2 = some [5, 0] ∧
      (9 : Byte).toNat = 9 + (0x00 : Byte).toNat % 16) := by decide

/-! ### Frames -/

theorem witness_FrameOfNonStoringCommands :
    (∃ t, exec (.mic (.slot .nwkSKey) .uplink 0 11) (sMic 0) = .next t ∧ t.errcode = 0) ∧
    (∃ t, exec (.verify (.slot .nwkSKey) .uplink 0 11) (sMic 0) = .next t ∧ t.errcode = 0) ∧
    (∃ t, exec (.validate 11) (sFrame f1) = .next t ∧ t.errcode = 0) ∧
    ∃ t, exec (.admitFrame 15) (sFrame f1) = .next t ∧ t.errcode = 0 :=
  ⟨ends 0 (by decide +kernel), ends 0 (by decide +kernel), ends 0 (by decide +kernel), ends 0 (by decide +kernel)⟩

theorem witness_FrameOfCrypt : (∃ t, exec (.crypt (.slot .appSKey) .uplink 0xFE 2) (sCrypt 0xFE) = .next t ∧ t.errcode = 0) ∧
    0xFD < (0xFE : Byte).toNat ∧ (0xFE : Byte).toNat + (2 : Byte).toNat ≤ 256 :=
  ⟨ends 0 (by decide +kernel), by decide, by decide⟩

theorem witness_FrameOfBuild :
    (∃ t, exec (.build 0x20 2 .unconfirmedDataUp) sBuild = .next t ∧ t.errcode = 0 ∧
      (if (2 : Byte).toNat = 0 then 12 else 13 + (2 : Byte).toNat) ≤ 15) ∧
    ∃ t, exec (.build 0x20 0 .unconfirmedDataUp) sBuild = .next t ∧ t.errcode = 0 ∧
      (if (0 : Byte).toNat = 0 then 12 else 13 + (0 : Byte).toNat) ≤ 12 := by
  obtain ⟨t, ht, h⟩ := ends (o := exec (.build 0x20 2 .unconfirmedDataUp) sBuild) 0 (by decide +kernel)
  obtain ⟨u, hu, h'⟩ := ends (o := exec (.build 0x20 0 .unconfirmedDataUp) sBuild) 0 (by decide +kernel)
  exact ⟨⟨t, ht, h, by decide⟩, u, hu, h', by decide⟩

/-- The FPort byte, at 8, and the byte after the frame, at 11. -/
theorem witness_FrameOfParse : (∃ t, exec (.parse 11) (sFrame f1) = .next t ∧ t.errcode = 0) ∧
    ∀ a, a = 8 ∨ a = 11 → ∀ fctrl, readByte (sFrame f1).buf 5 = some fctrl → a < afterFopts fctrl + 1 ∨ (11 : Byte).toNat ≤ a := by
  refine ⟨ends 0 (by decide +kernel), ?_⟩
  rintro a (rfl | rfl) fctrl h
  · obtain rfl : (0x20 : Byte) = fctrl := by simpa using (show some (0x20 : Byte) = some fctrl from (by decide : readByte (sFrame f1).buf 5 = some 0x20).symm.trans h)
    decide
  · exact .inr (by decide)

theorem witness_OnlyCryptStoresAnywhere :
    (∃ t, exec (.crypt (.slot .appSKey) .uplink 0xFE 2) (sCrypt 0xFE) = .next t ∧
      readByte t.buf 0xFF ≠ readByte (sCrypt 0xFE).buf 0xFF) ∧
    (∃ t, exec (.build 0x20 0 .unconfirmedDataUp) sBuild = .next t ∧ readByte t.buf 0 ≠ readByte sBuild.buf 0) ∧
    ∃ t, exec (.parse 10) (sFrame f1) = .next t ∧ readByte t.buf 9 ≠ readByte (sFrame f1).buf 9 := by
  obtain ⟨t, ht, h⟩ := after_next (o := exec (.crypt (.slot .appSKey) .uplink 0xFE 2) (sCrypt 0xFE))
    (p := fun t => readByte t.buf 0xFF != readByte (sCrypt 0xFE).buf 0xFF) (by decide +kernel)
  obtain ⟨u, hu, h'⟩ := after_next (o := exec (.build 0x20 0 .unconfirmedDataUp) sBuild)
    (p := fun t => readByte t.buf 0 != readByte sBuild.buf 0) (by decide +kernel)
  obtain ⟨v, hv, h''⟩ := after_next (o := exec (.parse 10) (sFrame f1))
    (p := fun t => readByte t.buf 9 != readByte (sFrame f1).buf 9) (by decide +kernel)
  exact ⟨⟨t, ht, by simpa using h⟩, ⟨u, hu, by simpa using h'⟩, v, hv, by simpa using h''⟩

/-! ### Cryptographic primitives -/

/-- The first words, the first computed one, one that is not a multiple of 4, and the last. -/
theorem witness_KeyScheduleRecurrence : 3 < 4 ∧ (4 ≤ 4 ∧ 4 < 44 ∧ 4 % 4 = 0) ∧ (4 ≤ 43 ∧ 43 < 44 ∧ 43 % 4 ≠ 0) := by decide

/-- The empty message, a message of one whole block, and a block followed by one byte. -/
theorem witness_CmacIsCbcMac :
    ((∀ b ∈ ([] : List (List Byte)), b.length = 16) ∧ ([] : List Byte).length ≤ 16) ∧
    ((List.replicate 16 0xAA : List Byte).length = 16) ∧
    (∀ b ∈ ([List.replicate 16 0xAA] : List (List Byte)), b.length = 16) ∧ ([0x55] : List Byte).length ≤ 16 ∧
    ([List.replicate 16 0xAA] ≠ ([] : List (List Byte)) → ([0x55] : List Byte) ≠ []) := by decide

theorem witness_CryptBytewise : (List.replicate 17 0xAA : List Byte)[15]? = some 0xAA ∧
    (List.replicate 17 0xAA : List Byte)[16]? = some 0xAA := by decide

/-! ### The host bus -/

/-- A byte of BUF at its end, FPORT, CTRL and STATUS, while a command is PENDING. -/
theorem witness_BusyWritesAreDropped :
    (busyWith 0x00040001 (sMic 0)).busy = true ∧
    (before [.write (Config.blockBase + 0x1FF) 1 7] (busyWith 0x00040001 (sMic 0))).moves =
      .write (Config.blockBase + 0x1FF) 1 7 :: [] ∧
    legalAccess 0x1FF 1 ∧ legalAccess 0x0FC 4 ∧ legalAccess 0x020 4 ∧ legalAccess 0x004 4 ∧ legalAccess 0x008 4 := by
  refine ⟨rfl, rfl, ?_⟩
  unfold legalAccess
  decide

theorem witness_StoppingAbortsTheCommand :
    (before [.write (Config.blockBase + 0x004) 4 0] (busyWith 0x00040001 (sMic 0))).moves =
      .write (Config.blockBase + 0x004) 4 0 :: [] ∧
    (busyWith 0x00040001 (sMic 0)).busy = true ∧ (busyWith 0x00040001 (sMic 0)).en = true ∧
    (0 : Word).getLsbD 0 = false ∧ (sMic 0).busy = false ∧ (busyWith 0x00040001 State.reset).en = false ∧
    (3 : Word).getLsbD 0 = true := by
  refine ⟨rfl, by decide⟩

theorem witness_ConfigurationLock :
    ((sMic 0).busy = false ∧ (sMic 0).en = true ∧ State.reset.busy = false ∧ State.reset.en = false) ∧
    (before [.write (Config.blockBase + 0x07C) 4 9] (sMic 0)).moves = .write (Config.blockBase + 0x07C) 4 9 :: [] ∧
    ((0x014 = 0x014 ∨ (0x050 ≤ 0x014 ∧ 0x014 < 0x080 ∧ 0x014 % 4 = 0)) ∧
      (0x050 = 0x014 ∨ (0x050 ≤ 0x050 ∧ 0x050 < 0x080 ∧ 0x050 % 4 = 0)) ∧
      (0x07C = 0x014 ∨ (0x050 ≤ 0x07C ∧ 0x07C < 0x080 ∧ 0x07C % 4 = 0))) ∧
    0x07C = 0x050 + 16 * KeySlot.appKey.num.toNat + 4 * (3 : Fin 4).val := by
  refine ⟨by decide, rfl, by decide, by decide⟩

theorem witness_FourWritesLoadAKeySlot : State.reset.busy = false ∧ State.reset.en = false ∧
    (before [.write (Config.blockBase + (0x050 + 16 * KeySlot.appKey.num.toNat)) 4 1,
        .write (Config.blockBase + (0x054 + 16 * KeySlot.appKey.num.toNat)) 4 2,
        .write (Config.blockBase + (0x058 + 16 * KeySlot.appKey.num.toNat)) 4 3,
        .write (Config.blockBase + (0x05C + 16 * KeySlot.appKey.num.toNat)) 4 4] State.reset).moves =
      .write (Config.blockBase + (0x050 + 16 * KeySlot.appKey.num.toNat)) 4 1 ::
      .write (Config.blockBase + (0x054 + 16 * KeySlot.appKey.num.toNat)) 4 2 ::
      .write (Config.blockBase + (0x058 + 16 * KeySlot.appKey.num.toNat)) 4 3 ::
      .write (Config.blockBase + (0x05C + 16 * KeySlot.appKey.num.toNat)) 4 4 :: [] :=
  ⟨rfl, rfl, rfl⟩

theorem witness_CmdWriteLaunches :
    (before [.write (Config.blockBase + 0x00C) 4 0xFFFFFFFF] State.reset).moves =
      .write (Config.blockBase + 0x00C) 4 0xFFFFFFFF :: [] ∧
    (before [.write (Config.blockBase + 0x00C) 4 0xFFFFFFFF] State.reset).busy = false := ⟨rfl, rfl⟩

/-- A read of ID, and a read of BUF while a command is PENDING. -/
theorem witness_ReadsHaveNoSideEffects :
    (∃ t, (before [.read (Config.blockBase + 0x000) 4] State.reset).moves = .read (Config.blockBase + 0x000) 4 :: [] ∧
      step (before [.read (Config.blockBase + 0x000) 4] State.reset) = .next t) ∧
    ∃ t, (before [.read (Config.blockBase + 0x1FF) 1] (busyWith 1 (sMic 0))).moves =
        .read (Config.blockBase + 0x1FF) 1 :: [] ∧
      step (before [.read (Config.blockBase + 0x1FF) 1] (busyWith 1 (sMic 0))) = .next t :=
  ⟨⟨_, rfl, step_read (off := 0x000) (size := 4) rfl (by decide) (by decide)⟩,
    _, rfl, step_read (off := 0x1FF) (size := 1) rfl (by decide) (by decide)⟩

theorem witness_BusyReads :
    (before [.read (Config.blockBase + 0x044) 4] (busyWith 1 (sMic 0))).moves = .read (Config.blockBase + 0x044) 4 :: [] ∧
    (busyWith 1 (sMic 0)).busy = true ∧ legalAccess 0x000 4 ∧ legalAccess 0x00C 4 ∧ legalAccess 0x010 4 ∧
    legalAccess 0x044 4 ∧ legalAccess 0x048 4 ∧ legalAccess 0x0FC 4 ∧ legalAccess 0x100 1 ∧ legalAccess 0x1FE 2 := by
  refine ⟨rfl, rfl, ?_, ?_, ?_, ?_, ?_, ?_, ?_, ?_⟩ <;> unfold legalAccess <;> decide

/-- The state the two register witnesses start from, with a move to come. -/
def sReg (m : Move) : State := before [m] (sMic 0)

/-- The last register of the list and the first, and the ends of the range that reads 0. -/
theorem witness_IdleRegisterReads :
    (sReg (.read (Config.blockBase + 0x044) 4)).moves = .read (Config.blockBase + 0x044) 4 :: [] ∧ (sMic 0).busy = false ∧
    (∀ p ∈ [(0x000, 0x4C525743), (0x014, 0x01020304), (0x024, 0x01020304), (0x044, (0 : Word))], p ∈
      [(0x000, 0x4C525743), (0x004, BitVec.ofNat 32 ((sMic 0).en.toNat + 2 * (sMic 0).ie.toNat)), (0x008, (sMic 0).statusWord),
        (0x00C, (sMic 0).cmd), (0x010, BitVec.ofNat 32 ((sMic 0).awaitAck.toNat + 2 * (sMic 0).ackPending.toNat)),
        (0x014, (sMic 0).devaddr), (0x018, (sMic 0).fcntUp), (0x01C, (sMic 0).fcntDown),
        (0x020, BitVec.ofNat 32 (sMic 0).fport.toNat), (0x024, (sMic 0).opDevaddr), (0x028, (sMic 0).opFcnt)] ++
        [(0x02C, (sMic 0).mic), (0x030, (sMic 0).micIn),
        (0x034, BitVec.ofNat 32 ((sMic 0).resultOk.toNat + 2 * (sMic 0).resultReason.toNat)),
        (0x038, BitVec.ofNat 32 (sMic 0).flen.toNat), (0x03C, (sMic 0).rxHdr), (0x040, (sMic 0).rxDevaddr),
        (0x044, (sMic 0).rxLayout)]) ∧
    (0x048 ≤ 0x048 ∧ 0x048 < 0x100 ∧ 0x048 % 4 = 0) ∧ (0x048 ≤ 0x0FC ∧ 0x0FC < 0x100 ∧ 0x0FC % 4 = 0) := by
  refine ⟨rfl, rfl, by decide +kernel, by decide, by decide⟩

/-- A write of 0x1FF to FPORT, whose bits 31:8 are ignored, and the ends of the ranges that ignore writes. -/
theorem witness_IdleRegisterWrites : ∀ s, s = sReg (.write (Config.blockBase + 0x020) 4 0x1FF) →
    s.moves = .write (Config.blockBase + 0x020) 4 0x1FF :: [] ∧ s.busy = false ∧
    (0x020, { s with fport := 0xFF }) ∈ [(0x004, { s with en := true, ie := true }),
      (0x008, { s with done := s.done && !true, cfgerr := s.cfgerr && !true, werr := s.werr && !true }),
      (0x010, { s with awaitAck := true, ackPending := true }), (0x018, { s with fcntUp := 0x1FF }),
      (0x01C, { s with fcntDown := 0x1FF }), (0x020, { s with fport := (0x1FF : Word).extractLsb' 0 8 }),
      (0x024, { s with opDevaddr := 0x1FF }), (0x028, { s with opFcnt := 0x1FF }), (0x030, { s with micIn := 0x1FF })] ∧
    0x000 ∈ [0x000, 0x02C, 0x034, 0x038, 0x03C, 0x040, 0x044, 0x048, 0x04C] ∧
    0x04C ∈ [0x000, 0x02C, 0x034, 0x038, 0x03C, 0x040, 0x044, 0x048, 0x04C] ∧
    (0x080 ≤ 0x080 ∧ 0x080 < 0x100 ∧ 0x080 % 4 = 0) ∧ (0x080 ≤ 0x0FC ∧ 0x0FC < 0x100 ∧ 0x0FC % 4 = 0) := by
  rintro s rfl
  exact ⟨rfl, rfl, .tail _ (.tail _ (.tail _ (.tail _ (.tail _ (.head _))))), by decide, by decide, by decide, by decide⟩

theorem witness_InterruptFollowsDone :
    ((busyWith 0x000F0007 (sFrame f1)).busy = true ∧
      ∃ t, engineStep (busyWith 0x000F0007 (sFrame f1)) = .next t ∧ t.errcode = 0) ∧
    (∃ t, (before [.write (Config.blockBase + 0x00C) 4 1] (sMic 0)).moves = .write (Config.blockBase + 0x00C) 4 1 :: [] ∧
      (before [.write (Config.blockBase + 0x00C) 4 1] (sMic 0)).busy = false ∧
      step (before [.write (Config.blockBase + 0x00C) 4 1] (sMic 0)) = .next t) ∧
    ∃ t, (before [.write (Config.blockBase + 0x008) 4 2] (sMic 0)).moves = .write (Config.blockBase + 0x008) 4 2 :: [] ∧
      (2 : Word).getLsbD 1 = true ∧ step (before [.write (Config.blockBase + 0x008) 4 2] (sMic 0)) = .next t :=
  ⟨⟨rfl, ends 0 (by decide +kernel)⟩, ⟨_, rfl, rfl, step_write (off := 0x00C) (size := 4) rfl (by decide) (by decide)⟩,
    _, rfl, by decide, step_write (off := 0x008) (size := 4) rfl (by decide) (by decide)⟩

/-- The last word of BUF written; a written pair of bytes read; a read that covers one unwritten byte. -/
theorem witness_BufferAccessesAreLittleEndian :
    ((sCrypt 0xFE).busy = false ∧ legalAccess (0x100 + 0xFC) 4 ∧ legalAccess (0x100 + 0xFE) 2) ∧
    (before [.write (Config.blockBase + (0x100 + 0xFC)) 4 7] (sCrypt 0xFE)).moves =
      .write (Config.blockBase + (0x100 + 0xFC)) 4 7 :: [] ∧
    (before [.read (Config.blockBase + (0x100 + 0xFE)) 2] (sCrypt 0xFE)).moves =
      .read (Config.blockBase + (0x100 + 0xFE)) 2 :: [] ∧
    readBytes (sCrypt 0xFE).buf 0xFE 2 = some [0xAA, 0xBB] ∧
    (before [.read (Config.blockBase + (0x100 + 0xFC)) 4] (sCrypt 0xFE)).moves =
      .read (Config.blockBase + (0x100 + 0xFC)) 4 :: [] ∧ readByte (sCrypt 0xFE).buf (0xFC + 1) = none := by
  unfold legalAccess
  refine ⟨by decide, rfl, rfl, by decide, rfl, by decide⟩

theorem witness_UnsupportedAccessesFault :
    (before [.read (Config.blockBase + 0x005) 2] (sMic 0)).moves = .read (Config.blockBase + 0x005) 2 :: [] ∧
    (before [.write (Config.blockBase + 0x1FE) 4 0] (sMic 0)).moves = .write (Config.blockBase + 0x1FE) 4 0 :: [] ∧
    ¬ legalAccess 0x005 2 ∧ ¬ legalAccess 0x004 2 ∧ ¬ legalAccess 0x1FE 4 ∧ ¬ legalAccess 0x100 3 ∧ ¬ legalAccess 0x101 2 := by
  unfold legalAccess
  refine ⟨rfl, rfl, by decide⟩

/-! ### Reset and whole-machine rules -/

theorem witness_ResetLeavesTheResetState :
    (before [.reset] (busyWith 0x000B0001 (sMic 0))).moves = .reset :: [] := rfl

/-- A state with a PENDING command has the invariant. -/
theorem inv_busy : (busyWith 0x000F0007 (sFrame f1)).Inv where
  buf := by decide
  errcode := by decide
  reason := by decide
  accepted := by decide
  busy := by rintro w h; cases h; exact ⟨rfl, rfl, rfl⟩
  layoutReserved := by decide
  layoutPayload := by decide
  flen := by decide

theorem witness_EveryStepKeepsTheInvariant : (busyWith 0x000F0007 (sFrame f1)).Inv ∧
    ∃ t, step (busyWith 0x000F0007 (sFrame f1)) = .next t ∧ t.errcode = 0 := ⟨inv_busy, ends 0 (by decide +kernel)⟩

/-- A command is launched, nothing is scheduled for the engine, and it ends. -/
theorem witness_EveryCommandEnds : ∃ t, Host.Core.run Sys2Proof.core
    ((before [.reset] (busyWith 0x000F0007 (sFrame f1))).moves.length + 1) (before [.reset] (busyWith 0x000F0007 (sFrame f1))) =
      .next t := ⟨_, rfl⟩

theorem witness_ConfigurationIsFixedWhileRunning : (busyWith 0x000F0007 (sFrame f1)).en = true ∧
    (∀ rest, (busyWith 0x000F0007 (sFrame f1)).moves ≠ .reset :: rest) ∧
    ∃ t, step (busyWith 0x000F0007 (sFrame f1)) = .next t ∧ t.errcode = 0 := by
  refine ⟨rfl, fun rest h => ?_, ends 0 (by decide +kernel)⟩
  exact List.cons_ne_nil _ _ (show [] = Move.reset :: rest from h).symm

/-- Reset, a host write, a BUILD and a PARSE that sees an ACK each change the SESS flags. -/
theorem witness_OnlyTheseEventsChangeSess :
    (∃ t, step (before [.reset] (sFrame f1)) = .next t ∧ t.awaitAck ≠ (before [.reset] (sFrame f1)).awaitAck) ∧
    (∃ t, step (before [.write (Config.blockBase + 0x010) 4 2] (sFrame f1)) = .next t ∧
      t.ackPending ≠ (before [.write (Config.blockBase + 0x010) 4 2] (sFrame f1)).ackPending) ∧
    (∃ t, step (busyWith 0x04002004 sBuild) = .next t ∧ t.awaitAck ≠ (busyWith 0x04002004 sBuild).awaitAck) ∧
    ∃ t, step (busyWith 0x000B0006 (sFrame f1)) = .next t ∧ t.awaitAck ≠ (busyWith 0x000B0006 (sFrame f1)).awaitAck := by
  obtain ⟨u, hu, h'⟩ := after_next (o := step (busyWith 0x04002004 sBuild)) (p := fun t => t.awaitAck) (by decide +kernel)
  obtain ⟨v, hv, h''⟩ := after_next (o := step (busyWith 0x000B0006 (sFrame f1))) (p := fun t => !t.awaitAck) (by decide +kernel)
  refine ⟨⟨_, rfl, by decide⟩, ⟨_, step_write (off := 0x010) (size := 4) rfl (by decide) (by decide), ?_⟩, ⟨u, hu, ?_⟩, v, hv, ?_⟩
  · show true ≠ false; decide
  · rw [h']; decide
  · have : v.awaitAck = false := by simpa using h''
    rw [this]; decide

/-- The same frame under two device keys; a read of a key register is scheduled, and a read that faults. -/
theorem witness_HostNeverReadsKeys :
    sameButKeyValues (before [.read (Config.blockBase + 0x050) 4] (sFrame f1))
      (before [.read (Config.blockBase + 0x050) 4] { sFrame f1 with nwkSKey := keyZ }) ∧
    (before [.read (Config.blockBase + 0x050) 4] (sFrame f1)).moves = .read (Config.blockBase + 0x050) 4 :: [] ∧
    Move.read (Config.blockBase + 0x050) 4 ≠ .engine ∧
    (∃ t, step (before [.read (Config.blockBase + 0x050) 4] (sFrame f1)) = .next t) ∧
    step (before [.read (Config.blockBase + 0x1FF) 1] (sFrame f1)) = .fault (.uninitRead (Config.blockBase + 0x1FF)) := by
  refine ⟨⟨rfl, ?_⟩, rfl, by simp, ⟨_, step_read (off := 0x050) (size := 4) rfl (by decide) (by decide)⟩,
    step_read (off := 0x1FF) (size := 1) rfl (by decide) (by decide)⟩
  intro k w
  cases k <;> revert w <;> decide

end Sys2Proof.Tests
end

section
/-! What each command can change: its result registers, STATUS and the bytes it stores (R68). -/

namespace Sys2Proof.Machine

/-! ### The registers a command can change -/

theorem execMic_frame {ksel : KSel} {dir : Dir} {off len : Byte} {s t : State}
    (h : execMic ksel dir off len s = .next t) :
    t = { s with mic := t.mic, errcode := t.errcode, pending := t.pending, done := t.done } := by
  rcases execMic_next h with ⟨c, -, rfl⟩ | ⟨k, data, -, -, rfl⟩ <;> rfl

theorem execVerify_frame {ksel : KSel} {dir : Dir} {off len : Byte} {s t : State}
    (h : execVerify ksel dir off len s = .next t) :
    t = { s with mic := t.mic, resultOk := t.resultOk, resultReason := t.resultReason,
                 errcode := t.errcode, pending := t.pending, done := t.done } := by
  rcases execVerify_next h with ⟨c, -, rfl⟩ | ⟨k, data, -, -, rfl⟩ <;> rfl

theorem execCrypt_frame {ksel : KSel} {dir : Dir} {off len : Byte} {s t : State}
    (h : execCrypt ksel dir off len s = .next t) :
    t = { s with buf := t.buf, errcode := t.errcode, pending := t.pending, done := t.done } := by
  rcases execCrypt_next h with ⟨c, -, rfl⟩ | ⟨k, data, -, -, -, rfl⟩ <;> rfl

theorem execBuild_frame {off len : Byte} {mt : MType} {s t : State} (h : execBuild off len mt s = .next t) :
    t = { s with buf := t.buf, flen := t.flen, mic := t.mic, awaitAck := t.awaitAck, ackPending := t.ackPending,
                 errcode := t.errcode, pending := t.pending, done := t.done } := by
  rcases execBuild_next h with ⟨c, -, rfl⟩ | ⟨p, -, -, rfl⟩
  · rfl
  · simp only [State.finish, State.sessAfterBuild, State.memWrite]

theorem execValidate_frame {len : Byte} {s t : State} (h : execValidate len s = .next t) :
    t = { s with mic := t.mic, flen := t.flen, resultOk := t.resultOk, resultReason := t.resultReason,
                 errcode := t.errcode, pending := t.pending, done := t.done } := by
  rcases execValidate_next h with ⟨c, -, rfl⟩ | ⟨-, rfl⟩ | ⟨-, mhdr, -, ⟨-, rfl⟩ | ⟨-, addr, -, ⟨-, rfl⟩ |
    ⟨-, fcnt, data, claimed, -, -, -, hf⟩⟩⟩
  · rfl
  · rfl
  · rfl
  · rfl
  · rcases validateFinish_next hf with ⟨-, rfl⟩ | ⟨-, rfl⟩ <;> rfl

theorem parseRest_frame {n : Nat} {fctrl : Byte} {fcnt : BitVec 16} {s t : State}
    (h : parseRest n fctrl fcnt s = .next t) :
    t = { s with buf := t.buf, rxLayout := t.rxLayout, errcode := t.errcode, pending := t.pending, done := t.done } := by
  rcases parseRest_next h with ⟨-, rfl⟩ | ⟨-, rfl⟩ | ⟨-, fport, data, -, -, rfl⟩ <;> rfl

theorem execParse_frame {len : Byte} {s t : State} (h : execParse len s = .next t) :
    t = { s with buf := t.buf, awaitAck := t.awaitAck, rxHdr := t.rxHdr, rxDevaddr := t.rxDevaddr, rxLayout := t.rxLayout,
                 errcode := t.errcode, pending := t.pending, done := t.done } := by
  rcases execParse_next h with ⟨c, -, -, rfl⟩ | ⟨-, mhdr, addr, fctrl, fcnt, -, -, -, -, hr⟩
  · rfl
  · rw [parseRest_frame hr]; rfl

theorem execAdmit_frame {len : Byte} {s t : State} (h : execAdmit len s = .next t) :
    t = { s with resultOk := t.resultOk, resultReason := t.resultReason,
                 errcode := t.errcode, pending := t.pending, done := t.done } := by
  rcases execAdmit_next h with ⟨c, -, rfl⟩ | ⟨fcnt, -, rfl⟩ <;> rfl

/-- No command changes EN, IE, the address, the counters, the operands, the keys or the schedule. -/
theorem exec_frame {i : Instr} {s t : State} (h : exec i s = .next t) :
    t = { s with buf := t.buf, mic := t.mic, flen := t.flen, resultOk := t.resultOk, resultReason := t.resultReason,
                 awaitAck := t.awaitAck, ackPending := t.ackPending,
                 rxHdr := t.rxHdr, rxDevaddr := t.rxDevaddr, rxLayout := t.rxLayout,
                 errcode := t.errcode, pending := t.pending, done := t.done } := by
  cases i with
  | mic => rw [execMic_frame h]
  | verify => rw [execVerify_frame h]
  | crypt => rw [execCrypt_frame h]
  | build => rw [execBuild_frame h]
  | validate => rw [execValidate_frame h]
  | parse => rw [execParse_frame h]
  | admitFrame => rw [execAdmit_frame h]

/-! ### The bytes a command stores -/

/-- CRYPT stores as many bytes as it reads (R156), at the offset it reads them from. -/
theorem readByte_execCrypt {ksel : KSel} {dir : Dir} {off len : Byte} {s t : State}
    (h : execCrypt ksel dir off len s = .next t) {a : Nat} (ha : a < off.toNat ∨ off.toNat + len.toNat ≤ a) :
    readByte t.buf a = readByte s.buf a := by
  rcases execCrypt_next h with ⟨c, -, rfl⟩ | ⟨k, data, -, -, hd, rfl⟩
  · rfl
  · exact readByte_writeBytes_outside (by rw [length_cryptBytes, readBytes_length hd]; exact ha)

/-- BUILD stores the frame, of 12 or 13 + LEN bytes (R206), from BUF[0] on. -/
theorem readByte_execBuild {off len : Byte} {mt : MType} {s t : State} (h : execBuild off len mt s = .next t) {a : Nat}
    (ha : (if len.toNat = 0 then 12 else 13 + len.toNat) ≤ a) : readByte t.buf a = readByte s.buf a := by
  rcases execBuild_next h with ⟨c, -, rfl⟩ | ⟨p, -, hp, rfl⟩
  · rfl
  · refine readByte_writeBytes_outside (.inr ?_)
    rw [length_buildFrame, readBytes_length hp, Nat.zero_add]
    exact ha

/-- PARSE stores the payload, which starts after the FPort byte and ends at LEN (R230). -/
theorem readByte_parseRest {n : Nat} {fctrl : Byte} {fcnt : BitVec 16} {s t : State}
    (h : parseRest n fctrl fcnt s = .next t) {a : Nat} (ha : a < afterFopts fctrl + 1 ∨ n ≤ a) :
    readByte t.buf a = readByte s.buf a := by
  rcases parseRest_next h with ⟨-, rfl⟩ | ⟨-, rfl⟩ | ⟨hn, fport, data, -, hd, rfl⟩
  · rfl
  · rfl
  · refine readByte_writeBytes_outside ?_
    rw [length_cryptBytes, readBytes_length hd]
    omega

/-! ### The frames of the commands -/

/-- Settles O28, from the registers each of the four commands can change: BUF is none of them. -/
theorem frameOfNonStoringCommands : Obligations.FrameOfNonStoringCommands := by
  intro s t
  refine ⟨fun _ _ _ _ => execMic_frame, fun _ _ _ _ => execVerify_frame, fun _ => execValidate_frame,
    fun _ => execAdmit_frame, fun i hi h a => ?_⟩
  have hbuf : t.buf = s.buf := by
    rcases hi with ⟨_, _, _, _, rfl⟩ | ⟨_, _, _, _, rfl⟩ | ⟨_, rfl⟩ | ⟨_, rfl⟩
    · rw [execMic_frame h]
    · rw [execVerify_frame h]
    · rw [execValidate_frame h]
    · rw [execAdmit_frame h]
  rw [hbuf]

/-- Settles O29. -/
theorem frameOfCrypt : Obligations.FrameOfCrypt :=
  fun _ _ _ _ _ _ h => ⟨execCrypt_frame h, fun _ => readByte_execCrypt h⟩

/-- Settles O30. -/
theorem frameOfBuild : Obligations.FrameOfBuild :=
  fun _ _ _ _ _ h => ⟨execBuild_frame h, fun _ => readByte_execBuild h⟩

/-- Settles O31: the FCtrl byte that bounds the payload is the one PARSE has read. -/
theorem frameOfParse : Obligations.FrameOfParse := by
  intro s t len h
  refine ⟨execParse_frame h, fun a ha => ?_⟩
  rcases execParse_next h with ⟨c, -, -, rfl⟩ | ⟨-, mhdr, addr, fctrl, fcnt, -, -, hfctrl, -, hr⟩
  · rfl
  · exact readByte_parseRest hr (ha fctrl hfctrl)

end Sys2Proof.Machine
end

section
/-! The invariant of the block: each update of the state keeps it, so each command, bus access and step does. -/

namespace Sys2Proof.Machine

/-! ### Updates of the state -/

/-- Every outcome code is a code of R250. -/
theorem CmdCode.num_le (c : CmdCode) : c.num.toNat ≤ 7 := by
  cases c <;> decide

/-- The end of a command: nothing is PENDING any more, and the code is one of R250. -/
theorem State.Inv.finish {s : State} (h : s.Inv) (c : CmdCode) : (s.finish c).Inv :=
  { h with errcode := c.num_le, busy := fun _ hw => nomatch hw }

/-- A launch makes CMD, DONE and ERRCODE what the invariant asks while BUSY (R44). -/
theorem State.Inv.launch {s : State} (h : s.Inv) (w : Word) : (s.launch w).Inv :=
  { h with
    errcode := Nat.zero_le 7
    busy := fun _ hw => ⟨Option.some.inj hw, rfl, rfl⟩ }

theorem State.Inv.memWrite {s : State} (h : s.Inv) {off : Nat} {v : List Byte} (hv : off + v.length ≤ Config.bufSize) :
    (s.memWrite off v).Inv :=
  { h with buf := wf_writeBytes hv h.buf }

theorem State.Inv.setMic {s : State} (h : s.Inv) (mic : Word) : State.Inv { s with mic := mic } := { h with }

theorem State.Inv.setFlen {s : State} (h : s.Inv) {n : Nat} (hn : n ≤ 251) :
    State.Inv { s with flen := BitVec.ofNat 8 n } :=
  { h with flen := by rw [BitVec.toNat_ofNat]; omega }

theorem State.Inv.setResult {s : State} (h : s.Inv) {ok : Bool} {reason : BitVec 3} (hr : reason.toNat ≤ 4)
    (hok : ok = true → reason = 0) : (s.setResult ok reason).Inv :=
  { h with reason := hr, accepted := hok }

theorem State.Inv.recordHeader {s : State} (h : s.Inv) (mhdr : Byte) (addr : Word) (fctrl : Byte) (fcnt : BitVec 16) :
    (s.recordHeader mhdr addr fctrl fcnt).Inv := { h with }

theorem State.Inv.sessAfterBuild {s : State} (h : s.Inv) (mt : MType) : (s.sessAfterBuild mt).Inv := { h with }

/-- RX_LAYOUT of a payload that lies in the buffer, with FPORT_PRESENT 1 exactly where it is not empty (R58). -/
theorem State.Inv.setLayout {s : State} (h : s.Inv) {plen poff : Nat} {present : Bool} (hp : present = true ↔ plen ≠ 0)
    (hl : poff + plen ≤ 255) (fport : Byte) : State.Inv { s with rxLayout := rxLayoutWord plen poff present fport } := by
  obtain ⟨hlen, hoff, hres, hpres, -⟩ := rxLayoutWord_fields (plen := plen) (poff := poff) (by omega) (by omega) present fport
  have hpay : plen ≠ 0 ↔ (rxLayoutWord plen poff present fport).extractLsb' 24 8 ≠ 0 := by
    simp [← BitVec.toNat_inj, hlen]
  exact { h with
    layoutReserved := hres
    layoutPayload := ⟨(Bool.eq_iff_iff.1 hpres).trans (hp.trans hpay), hoff.symm ▸ hlen.symm ▸ hl⟩ }

/-- A STATUS write only clears flags, so DONE stays 0 while BUSY (R39). -/
theorem State.Inv.writeStatus {s : State} (h : s.Inv) (v : Word) : (s.writeStatus v).Inv := by
  refine { h with busy := fun w hw => ?_ }
  obtain ⟨hcmd, hdone, herr⟩ := h.busy w hw
  exact ⟨hcmd, by simp [hdone], herr⟩

theorem State.Inv.writeCtrl {s : State} (h : s.Inv) (v : Word) : (s.writeCtrl v).Inv := by
  have ht : State.Inv { s with en := v.getLsbD 0, ie := v.getLsbD 1 } := { h with }
  cases ha : s.busy && s.en && !v.getLsbD 0
  · rw [State.writeCtrl_plain _ _ ha]; exact ht
  · rw [State.writeCtrl_abort _ _ ha]; exact ht.finish _

theorem State.Inv.writeKey {s : State} (h : s.Inv) (k : KeySlot) (w : Fin 4) (v : Word) : (s.writeKey k w v).Inv := by
  cases k <;> exact { h with }

theorem State.Inv.locked {s t : State} (h : s.Inv) (ht : t.Inv) : (s.locked t).Inv := by
  cases he : s.en
  · rw [State.locked_stopped he]; exact ht
  · rw [State.locked_running he]; exact { h with }

/-- A register write keeps the invariant, whichever register it is for. -/
theorem State.Inv.writeReg {s : State} (h : s.Inv) (r : Reg) (v : Word) : (s.writeReg r v).Inv := by
  cases r with
  | ctrl => exact h.writeCtrl v
  | status => exact h.writeStatus v
  | cmd => exact h.launch v
  | devaddr => exact h.locked { h with }
  | key k w => exact h.locked (h.writeKey k w v)
  | _ => exact { h with }

/-! ### Commands -/

theorem execMic_inv {ksel : KSel} {dir : Dir} {off len : Byte} {s t : State} (hs : s.Inv)
    (h : execMic ksel dir off len s = .next t) : t.Inv := by
  rcases execMic_next h with ⟨c, -, rfl⟩ | ⟨k, data, -, -, rfl⟩
  · exact hs.finish c
  · exact (hs.setMic _).finish _

theorem execVerify_inv {ksel : KSel} {dir : Dir} {off len : Byte} {s t : State} (hs : s.Inv)
    (h : execVerify ksel dir off len s = .next t) : t.Inv := by
  rcases execVerify_next h with ⟨c, -, rfl⟩ | ⟨k, data, -, -, rfl⟩
  · exact hs.finish c
  · exact ((hs.setMic _).setResult (by decide) fun _ => rfl).finish _

/-- CRYPT's region passed the range check, and the cipher keeps its length (R156). -/
theorem execCrypt_inv {ksel : KSel} {dir : Dir} {off len : Byte} {s t : State} (hs : s.Inv)
    (h : execCrypt ksel dir off len s = .next t) : t.Inv := by
  rcases execCrypt_next h with ⟨c, -, rfl⟩ | ⟨k, data, -, hr, hd, rfl⟩
  · exact hs.finish c
  · refine (hs.memWrite ?_).finish _
    rw [length_cryptBytes, readBytes_length hd]
    exact outOfRange_eq_false.1 hr

/-- BUILD's payload has at most 20 bytes, so the frame has at most 33 (R206). -/
theorem execBuild_inv {off len : Byte} {mt : MType} {s t : State} (hs : s.Inv)
    (h : execBuild off len mt s = .next t) : t.Inv := by
  rcases execBuild_next h with ⟨c, -, rfl⟩ | ⟨p, hc, hp, rfl⟩
  · exact hs.finish c
  · obtain ⟨-, -, -, hlen, -, -⟩ := buildChecks_none.1 hc
    have hpl : p.length ≤ 20 := readBytes_length hp ▸ hlen
    have hmsg : (s.buildMessage mt p).length + Config.micBytes ≤ 33 := by
      rw [length_buildMessage]; split <;> simp only [Config.micBytes] <;> omega
    have hframe : 0 + (s.buildFrame mt p).length ≤ Config.bufSize := by
      rw [length_buildFrame]; split <;> simp only [Config.bufSize] <;> omega
    exact ((((hs.setFlen (le_trans hmsg (by decide))).setMic _).memWrite hframe).sessAfterBuild mt).finish _

theorem execValidate_inv {len : Byte} {s t : State} (hs : s.Inv) (h : execValidate len s = .next t) : t.Inv := by
  have discarded {u : State} (hu : u.Inv) (r : BitVec 3) (hr : r.toNat ≤ 4) : ((u.setResult false r).finish .ok).Inv :=
    (hu.setResult hr fun hok => absurd hok Bool.false_ne_true).finish .ok
  rcases execValidate_next h with ⟨c, -, rfl⟩ | ⟨-, rfl⟩ | ⟨-, mhdr, -, ⟨-, rfl⟩ | ⟨-, addr, -, ⟨-, rfl⟩ |
    ⟨-, fcnt, data, claimed, -, -, -, hf⟩⟩⟩
  · exact hs.finish c
  · exact discarded hs 1 (by decide)
  · exact discarded hs 2 (by decide)
  · exact discarded hs 3 (by decide)
  · rcases validateFinish_next hf with ⟨-, rfl⟩ | ⟨-, rfl⟩
    · have hlen : len.toNat - Config.micBytes ≤ 251 := by have := len.isLt; simp only [Config.micBytes]; omega
      refine State.Inv.finish (State.Inv.setResult ?_ (by decide) fun _ => rfl) .ok
      exact (hs.setFlen hlen).setMic _
    · exact discarded (hs.setMic _) 4 (by decide)

/-- PARSE's payload ends at LEN, which is at most 255. -/
theorem parseRest_inv {len : Byte} {fctrl : Byte} {fcnt : BitVec 16} {s t : State} (hs : s.Inv)
    (h : parseRest len.toNat fctrl fcnt s = .next t) : t.Inv := by
  have hn := len.isLt
  rcases parseRest_next h with ⟨-, rfl⟩ | ⟨he, rfl⟩ | ⟨hlt, fport, data, -, hd, rfl⟩
  · exact hs.finish _
  · exact (hs.setLayout (by simp) (by omega) 0).finish _
  · refine ((hs.setLayout (by simp; omega) (by omega) fport).memWrite ?_).finish _
    rw [length_cryptBytes, readBytes_length hd]
    simp only [Config.bufSize]; omega

theorem execParse_inv {len : Byte} {s t : State} (hs : s.Inv) (h : execParse len s = .next t) : t.Inv := by
  rcases execParse_next h with ⟨c, -, -, rfl⟩ | ⟨-, mhdr, addr, fctrl, fcnt, -, -, -, -, hr⟩
  · exact hs.finish c
  · exact parseRest_inv (hs.recordHeader _ _ _ _) hr

theorem execAdmit_inv {len : Byte} {s t : State} (hs : s.Inv) (h : execAdmit len s = .next t) : t.Inv := by
  rcases execAdmit_next h with ⟨c, -, rfl⟩ | ⟨fcnt, -, rfl⟩
  · exact hs.finish c
  · exact (hs.setResult (by decide) fun _ => rfl).finish _

/-- Every command keeps the invariant. -/
theorem exec_inv {i : Instr} {s t : State} (hs : s.Inv) (h : exec i s = .next t) : t.Inv := by
  cases i with
  | mic => exact execMic_inv hs h
  | verify => exact execVerify_inv hs h
  | crypt => exact execCrypt_inv hs h
  | build => exact execBuild_inv hs h
  | validate => exact execValidate_inv hs h
  | parse => exact execParse_inv hs h
  | admitFrame => exact execAdmit_inv hs h

/-! ### Steps -/

theorem engineStep_inv {s t : State} (hs : s.Inv) (h : engineStep s = .next t) : t.Inv := by
  rcases engineStep_next h with ⟨-, rfl⟩ | ⟨w, -, ⟨i, -, he⟩ | ⟨e, -, rfl⟩⟩
  · exact hs
  · exact exec_inv hs he
  · exact hs.finish _

theorem busRead_inv {addr size : Nat} {s t : State} (hs : s.Inv) (h : busRead addr size s = .next t) : t.Inv := by
  obtain ⟨r, d, rfl⟩ := busRead_next h
  exact { hs with }

theorem busWrite_inv {addr size : Nat} {v : Word} {s t : State} (hs : s.Inv)
    (h : busWrite addr size v s = .next t) : t.Inv := by
  rcases busWrite_next h with rfl | ⟨off, u, hw, hsup, rfl, hu⟩
  · exact { hs with }
  · suffices hu' : u.Inv from { hu' with }
    rcases hu with ⟨-, rfl⟩ | ⟨-, -, rfl⟩ | ⟨ho, -, rfl⟩
    · exact { hs with }
    · exact hs.writeReg _ v
    · obtain ⟨-, hfit⟩ := supported_buffer hsup ho (windowOffset_lt hw).1
      refine hs.memWrite (le_trans (Nat.add_le_add_left ?_ _) hfit)
      exact List.length_take_le _ _

/-- Settles O55: every register is 0, nothing is PENDING and no byte of the buffer is written. -/
theorem resetHasTheInvariant : Obligations.ResetHasTheInvariant where
  buf := wf_reset
  errcode := by decide
  reason := by decide
  accepted := nofun
  busy := nofun
  layoutReserved := by decide
  layoutPayload := by decide
  flen := by decide

theorem runMove_inv {m : Move} {s t : State} (hs : s.Inv) (h : runMove m s = .next t) : t.Inv := by
  cases m with
  | engine => exact engineStep_inv hs h
  | read => exact busRead_inv hs h
  | write => exact busWrite_inv hs h
  | reset =>
    cases h
    exact { (resetHasTheInvariant : State.reset.Inv) with }

/-- Settles O56, by the agent that moves; the schedule is no part of the invariant. -/
theorem everyStepKeepsTheInvariant : Obligations.EveryStepKeepsTheInvariant := by
  intro s t hs h
  rcases step_next h with ⟨-, he⟩ | ⟨m, rest, -, hm⟩
  · exact engineStep_inv hs he
  · exact runMove_inv (s := { s with moves := rest }) { hs with } hm

end Sys2Proof.Machine
end

section
/-! The registers on the bus while BUSY = 0: the register words, reads, writes, the configuration lock and the keys. -/

namespace Sys2Proof.Machine

/-! ### The register words -/

/-- Two flags in bits 1 and 0, as CTRL and SESS hold them (R34, R45). -/
theorem place_two_flags (a b : Bool) :
    place 32 (flag a) 1 ||| place 32 (flag b) 0 = BitVec.ofNat 32 (b.toNat + 2 * a.toNat) := by
  cases a <;> cases b <;> rfl

theorem State.ctrlWord_eq (s : State) : s.ctrlWord = BitVec.ofNat 32 (s.en.toNat + 2 * s.ie.toNat) :=
  place_two_flags s.ie s.en

theorem State.sessWord_eq (s : State) : s.sessWord = BitVec.ofNat 32 (s.awaitAck.toNat + 2 * s.ackPending.toNat) :=
  place_two_flags s.ackPending s.awaitAck

/-- REASON above OK (R54). -/
theorem State.resultWord_eq (s : State) :
    s.resultWord = BitVec.ofNat 32 (s.resultOk.toNat + 2 * s.resultReason.toNat) := by
  have all : ∀ (ok : Bool) (reason : BitVec 3),
      place 32 reason 1 ||| place 32 (flag ok) 0 = BitVec.ofNat 32 (ok.toNat + 2 * reason.toNat) := by decide
  exact all s.resultOk s.resultReason

/-! ### The STATUS word -/

/-- A field above a value that ends below it adds to it. -/
theorem toNat_place_or {w n k : Nat} {y : BitVec w} (x : BitVec n) (h : n + k ≤ w) (hy : y.toNat < 2 ^ k) :
    (place w x k ||| y).toNat = x.toNat * 2 ^ k + y.toNat := by
  rw [BitVec.toNat_or, toNat_place x k h, mul_two_pow_or hy]

theorem KeyRegs.loaded_iff (r : KeyRegs) : r.loaded = true ↔ ∀ w, (r.word w).written = true := by
  simp [KeyRegs.loaded, KeyRegs.word, Fin.forall_fin_succ, and_assoc]

/-- KEYV has one bit a slot (R43). -/
theorem State.toNat_keyv (s : State) : s.keyv.toNat =
    (s.keyLoaded .nwkSKey).toNat + 2 * (s.keyLoaded .appSKey).toNat + 4 * (s.keyLoaded .appKey).toNat := by
  unfold State.keyv
  cases s.keyLoaded .nwkSKey <;> cases s.keyLoaded .appSKey <;> cases s.keyLoaded .appKey <;> rfl

theorem State.toNat_err (s : State) : 4 * s.err.toNat = if s.errcode = 0 then 0 else 4 := by
  unfold State.err
  split <;> simp_all

/-- The five flags below ERRCODE (R37). -/
theorem toNat_statusFlags (werr cfgerr err done busy : Bool) :
    (place 32 (flag werr) 5 ||| (place 32 (flag cfgerr) 4 ||| (place 32 (flag err) 2 ||| (place 32 (flag done) 1 |||
      place 32 (flag busy) 0)))).toNat =
        busy.toNat + 2 * done.toNat + 4 * err.toNat + 16 * cfgerr.toNat + 32 * werr.toNat := by
  revert werr cfgerr err done busy
  decide

/-- The fields of STATUS do not overlap, so the word is their sum: KEYV above ERRCODE above the flags (R37). -/
theorem State.toNat_statusWord (s : State) : s.statusWord.toNat =
    s.busy.toNat + 2 * s.done.toNat + 4 * s.err.toNat + 16 * s.cfgerr.toNat + 32 * s.werr.toNat +
      256 * s.errcode.toNat + 65536 * s.keyv.toNat := by
  have hflags := toNat_statusFlags s.werr s.cfgerr s.err s.done s.busy
  have hlow : s.busy.toNat + 2 * s.done.toNat + 4 * s.err.toNat + 16 * s.cfgerr.toNat + 32 * s.werr.toNat < 2 ^ 8 := by
    have := Bool.toNat_le s.busy
    have := Bool.toNat_le s.done
    have := Bool.toNat_le s.err
    have := Bool.toNat_le s.cfgerr
    have := Bool.toNat_le s.werr
    omega
  have hcode := toNat_place_or s.errcode (k := 8) (by decide) (hflags.trans_lt hlow)
  have hkeyv := toNat_place_or s.keyv (k := 16) (by decide) (hcode.trans_lt (by have := s.errcode.isLt; omega))
  rw [State.statusWord]
  simp only [BitVec.or_assoc]
  omega

/-- Settles O50: BUSY, ERR and KEYV are put in for what R38, R40 and R43 define them as. -/
theorem statusWordLayout : Obligations.StatusWordLayout := by
  refine fun s => ⟨?_, fun k => (s.keyRegs k).loaded_iff⟩
  have hbusy : s.busy.toNat = if s.pending.isSome then 1 else 0 := by
    cases hp : s.pending <;> simp [State.busy, hp]
  rw [s.toNat_statusWord, s.toNat_keyv, s.toNat_err, hbusy]

/-! ### Reads while BUSY = 0 -/

/-- A read of a register while BUSY = 0 answers its word and changes nothing else. -/
theorem step_readRegister {s : State} {off : Nat} {rest : List Move}
    (hm : s.moves = .read (Config.blockBase + off) 4 :: rest) (hb : s.busy = false) (ho : off < 0x100)
    (h4 : off % 4 = 0) : step s = .next { s with moves := rest, reply := .data (s.readReg (regAt off)) } := by
  rw [step_read hm (by simp only [Config.windowSize]; omega) (by simp [supported, ho, h4])]
  exact readAt_idle (s := { s with moves := rest }) hb ho

/-- Key and reserved offsets read 0 (R59, R62). -/
theorem readReg_keys_reserved (s : State) {off : Nat} (hl : 0x048 ≤ off) (ho : off < 0x100) (h4 : off % 4 = 0) :
    s.readReg (regAt off) = 0 := by
  obtain ⟨n, rfl⟩ : ∃ n, off = 4 * n := ⟨off / 4, by omega⟩
  have hn : 18 ≤ n := by omega
  have hn' : n < 64 := by omega
  interval_cases n <;> rfl

/-- Settles O48, entry by entry of the statement's table: the register at each offset reads as the word beside it. -/
theorem idleRegisterReads : Obligations.IdleRegisterReads := by
  intro s off v rest hm hb hv
  obtain ⟨ho, h4, rfl⟩ : off < 0x100 ∧ off % 4 = 0 ∧ s.readReg (regAt off) = v := by
    rcases hv with hv | ⟨hl, ho, h4, rfl⟩
    · refine (?_ : ∀ p ∈ (_ : List (Nat × Word)), p.1 < 0x100 ∧ p.1 % 4 = 0 ∧ s.readReg (regAt p.1) = p.2) (off, v) hv
      simp [regAt, State.readReg, s.ctrlWord_eq, s.sessWord_eq, s.resultWord_eq, Config.idValue]
    · exact ⟨ho, h4, readReg_keys_reserved s hl ho h4⟩
  exact step_readRegister hm hb ho h4

/-! ### Writes while BUSY = 0 -/

/-- No register write looks at the schedule. -/
theorem writeReg_moves (s : State) (rest : List Move) (r : Reg) (v : Word) :
    State.writeReg { s with moves := rest } r v = { s.writeReg r v with moves := rest } := by
  cases r with
  | ctrl =>
    cases hc : s.busy && s.en && !v.getLsbD 0
    · rw [State.writeReg, State.writeReg, State.writeCtrl_plain s v hc]
      exact State.writeCtrl_plain { s with moves := rest } v hc
    · rw [State.writeReg, State.writeReg, State.writeCtrl_abort s v hc]
      exact State.writeCtrl_abort { s with moves := rest } v hc
  | devaddr => cases he : s.en <;> simp [State.writeReg, State.locked, he]
  | key k w => cases he : s.en <;> cases k <;> simp [State.writeReg, State.locked, State.writeKey, he]
  | _ => rfl

/-- A write of a register while BUSY = 0 has the register's effect and no other. -/
theorem step_writeRegister {s : State} {off : Nat} {v : Word} {rest : List Move}
    (hm : s.moves = .write (Config.blockBase + off) 4 v :: rest) (hb : s.busy = false) (ho : off < 0x100)
    (h4 : off % 4 = 0) : step s = .next { s.writeReg (regAt off) v with moves := rest, reply := .written } := by
  rw [step_write hm (by simp only [Config.windowSize]; omega) (by simp [supported, ho, h4]),
    writeAt_idle (s := { s with moves := rest }) v hb ho, writeReg_moves]
  rfl

/-- Offsets above the keys are reserved (R32, R62). -/
theorem regAt_reserved {off : Nat} (hl : 0x080 ≤ off) (ho : off < 0x100) (h4 : off % 4 = 0) :
    regAt off = .reserved := by
  obtain ⟨n, rfl⟩ : ∃ n, off = 4 * n := ⟨off / 4, by omega⟩
  have all : ∀ n : Fin 64, 32 ≤ n.val → regAt (4 * n.val) = .reserved := by decide
  exact all ⟨n, by omega⟩ (show 32 ≤ n by omega)

/-- Settles O49, entry by entry of the statement's tables: a write to the register at each offset gives the state beside it,
or leaves the state as it is. -/
theorem idleRegisterWrites : Obligations.IdleRegisterWrites := by
  intro s t off v rest hm hb ht
  obtain ⟨ho, h4, rfl⟩ : off < 0x100 ∧ off % 4 = 0 ∧ s.writeReg (regAt off) v = t := by
    rcases ht with ht | ⟨hoff, rfl⟩ | ⟨hl, ho, h4, rfl⟩
    · refine (?_ : ∀ p ∈ (_ : List (Nat × State)), p.1 < 0x100 ∧ p.1 % 4 = 0 ∧ s.writeReg (regAt p.1) v = p.2) (off, t) ht
      simp [regAt, State.writeReg, State.writeCtrl_plain, hb, State.writeStatus, BitVec.setWidth_eq_extractLsb']
    · refine (?_ : ∀ o ∈ (_ : List Nat), o < 0x100 ∧ o % 4 = 0 ∧ t.writeReg (regAt o) v = t) off hoff
      simp [regAt, State.writeReg]
    · exact ⟨ho, h4, by rw [regAt_reserved hl ho h4]; rfl⟩
  exact step_writeRegister hm hb ho h4

/-- Settles O45: CMD is at 0x00C, and no state of EN or of the word keeps a write from launching it. -/
theorem cmdWriteLaunches : Obligations.CmdWriteLaunches :=
  fun _ _ _ hm hb => step_writeRegister hm hb (by decide) (by decide)

/-! ### The configuration lock and the keys -/

/-- A write of a key word while the block is stopped and BUSY = 0 (R36, R60). -/
theorem step_writeKey {s : State} {off : Nat} {v : Word} {rest : List Move} {k : KeySlot} {w : Fin 4}
    (hm : s.moves = .write (Config.blockBase + off) 4 v :: rest) (hoff : off = 0x050 + 16 * k.num.toNat + 4 * w.val)
    (hb : s.busy = false) (he : s.en = false) :
    ∃ t, step s = .next t ∧ (∀ k', t.keyRegs k' = if k = k' then (s.keyRegs k).writeWord w v else s.keyRegs k') ∧
      t = { s with moves := rest, reply := .written, nwkSKey := t.nwkSKey, appSKey := t.appSKey, appKey := t.appKey } := by
  have hk := k.num.isLt
  have hw := w.isLt
  refine ⟨{ s.writeKey k w v with moves := rest, reply := .written }, ?_, fun k' => s.keyRegs_writeKey k k' w v, ?_⟩
  · rw [step_writeRegister hm hb (by omega) (by omega), hoff, regAt_key, State.writeReg, State.locked_stopped he]
  · cases k <;> rfl

/-- Settles O43: DEVADDR and the key words are the registers behind the lock. -/
theorem configurationLock : Obligations.ConfigurationLock := by
  intro s v rest off hb hm
  refine ⟨fun he hoff => ?_, fun he hoff => ?_, fun he k w hoff => ?_⟩
  · rw [step_writeRegister hm hb (by omega) (by omega)]
    rcases regAt_locked hoff with hr | ⟨k, w, hr⟩ <;> rw [hr, State.writeReg, State.locked_running he]
  · subst hoff
    rw [step_writeRegister hm hb (by decide) (by decide), show regAt 0x014 = .devaddr from rfl, State.writeReg,
      State.locked_stopped he]
  · obtain ⟨t, hstep, hregs, ht⟩ := step_writeKey hm hoff hb he
    refine ⟨t, hstep, ?_, fun w' hw' => ?_, fun k' hk' => ?_, ht⟩
    · rw [hregs, if_pos rfl, KeyRegs.word_writeWord, if_pos rfl]
    · rw [hregs, if_pos rfl, KeyRegs.word_writeWord, if_neg hw'.symm]
    · rw [hregs, if_neg hk'.symm]

/-- After a write of a key word the block is still stopped and idle, ready for the next. -/
theorem step_writeKey_stopped {s : State} {off : Nat} {v : Word} {rest : List Move} {k : KeySlot} {w : Fin 4}
    (hm : s.moves = .write (Config.blockBase + off) 4 v :: rest) (hoff : off = 0x050 + 16 * k.num.toNat + 4 * w.val)
    (hb : s.busy = false) (he : s.en = false) :
    ∃ t, step s = .next t ∧ t.moves = rest ∧ t.busy = false ∧ t.en = false ∧
      ∀ k', t.keyRegs k' = if k = k' then (s.keyRegs k).writeWord w v else s.keyRegs k' := by
  obtain ⟨t, hstep, hregs, ht⟩ := step_writeKey hm hoff hb he
  refine ⟨t, hstep, ?_, ?_, ?_, hregs⟩ <;> rw [ht]
  · exact hb
  · exact he

/-- A run of `n + 1` steps is a step and a run of `n`. -/
theorem run_succ {s t : State} (h : step s = .next t) (n : Nat) :
    Host.Core.run Sys2Proof.core (n + 1) s = Host.Core.run Sys2Proof.core n t := by
  have hc : Sys2Proof.core.step s = .next t := h
  simp only [Host.Core.run, hc]

/-- Settles O44: each of the four steps writes one word of the slot, and the four together are the whole slot. -/
theorem fourWritesLoadAKeySlot : Obligations.FourWritesLoadAKeySlot := by
  intro s k v₀ v₁ v₂ v₃ rest hb he hm
  obtain ⟨t₀, h₀, hm₀, hb₀, he₀, hr₀⟩ := step_writeKey_stopped (k := k) (w := 0) hm (by omega) hb he
  obtain ⟨t₁, h₁, hm₁, hb₁, he₁, hr₁⟩ := step_writeKey_stopped (k := k) (w := 1) hm₀ (by omega) hb₀ he₀
  obtain ⟨t₂, h₂, hm₂, hb₂, he₂, hr₂⟩ := step_writeKey_stopped (k := k) (w := 2) hm₁ (by omega) hb₁ he₁
  obtain ⟨t₃, h₃, hm₃, -, -, hr₃⟩ := step_writeKey_stopped (k := k) (w := 3) hm₂ (by omega) hb₂ he₂
  have hslot : t₃.keyRegs k =
      ((((s.keyRegs k).writeWord 0 v₀).writeWord 1 v₁).writeWord 2 v₂).writeWord 3 v₃ := by
    rw [hr₃, if_pos rfl, hr₂, if_pos rfl, hr₁, if_pos rfl, hr₀, if_pos rfl]
  refine ⟨t₃, ?_, hm₃, ?_, ?_, fun k' hk' => ?_⟩
  · rw [run_succ h₀, run_succ h₁, run_succ h₂, run_succ h₃]; rfl
  · rw [State.keyLoaded, hslot]; rfl
  · rw [hslot]; rfl
  · rw [hr₃, if_neg hk'.symm, hr₂, if_neg hk'.symm, hr₁, if_neg hk'.symm, hr₀, if_neg hk'.symm]

end Sys2Proof.Machine
end


section
/-! What a step leaves: the interrupt output, the configuration while the block runs, the SESS flags, and reset. -/

namespace Sys2Proof.Machine

open Sys2Proof.Claims

/-! ### Reset and a placed word -/

/-- Settles O54: the second clause is RESET_IN's move, whose state State.assertReset is. -/
theorem resetLeavesTheResetState : Obligations.ResetLeavesTheResetState := by
  have hkeys (k : KeySlot) (w : Fin 4) : ((State.reset.keyRegs k).word w).written = false := by
    cases k <;> revert w <;> decide
  refine ⟨⟨rfl, rfl, rfl, rfl, rfl, rfl, rfl, rfl, rfl, rfl, rfl, rfl, rfl, rfl, rfl, rfl, rfl, rfl, rfl, rfl, hkeys,
    fun _ => rfl⟩, fun s rest hm => ?_⟩
  rw [step_cons hm]
  rfl

theorem decode_of_decodeTableWord {nbits w : Nat} {i : Instr} (h : decodeTableWord nbits w = some i) :
    decode (tableWord nbits w) = .ok i := by
  unfold decodeTableWord at h
  split at h
  · cases h; assumption
  · cases h

/-- With the engine's move in front, or nothing scheduled, the step is the engine's, with the old schedule left (log 3). -/
theorem step_launchNext (s : State) (w : Word) : step (s.launchNext w) = engineStep (s.launch w) := by
  cases hm : s.moves with
  | nil =>
    have hl : s.launchNext w = s.launch w := by simp [State.launchNext, State.launch, hm, engineFirst]
    rw [hl]; exact step_nil (s := s.launch w) hm
  | cons m rest =>
    rw [step_cons (m := .engine) (rest := m :: rest) (by simp [State.launchNext, hm, engineFirst])]
    simp [runMove, State.launchNext, State.launch, ← hm]

/-- Settles O7: the engine finds the placed word PENDING. -/
theorem placedWordRunsNext : Obligations.PlacedWordRunsNext := by
  intro s nbits w i hi
  rw [State.withFetchWord, step_launchNext, engineStep, State.launch_pending]
  simp only [runWord, decode_of_decodeTableWord hi]
  rfl

/-! ### The interrupt output -/

/-- A command that answers has ended: DONE is 1 (R251). -/
theorem exec_done {i : Instr} {s t : State} (h : exec i s = .next t) : t.done = true := by
  cases i with
  | mic => rcases execMic_next h with ⟨_, -, rfl⟩ | ⟨_, _, -, -, rfl⟩ <;> rfl
  | verify => rcases execVerify_next h with ⟨_, -, rfl⟩ | ⟨_, _, -, -, rfl⟩ <;> rfl
  | crypt => rcases execCrypt_next h with ⟨_, -, rfl⟩ | ⟨_, _, -, -, -, rfl⟩ <;> rfl
  | build => rcases execBuild_next h with ⟨_, -, rfl⟩ | ⟨_, -, -, rfl⟩ <;> rfl
  | validate =>
    rcases execValidate_next h with ⟨_, -, rfl⟩ | ⟨-, rfl⟩ | ⟨-, _, -, ⟨-, rfl⟩ | ⟨-, _, -, ⟨-, rfl⟩ |
      ⟨-, _, _, _, -, -, -, hf⟩⟩⟩
    · rfl
    · rfl
    · rfl
    · rfl
    · rcases validateFinish_next hf with ⟨-, rfl⟩ | ⟨-, rfl⟩ <;> rfl
  | parse =>
    rcases execParse_next h with ⟨_, -, -, rfl⟩ | ⟨-, _, _, _, _, -, -, -, -, hr⟩
    · rfl
    · rcases parseRest_next hr with ⟨-, rfl⟩ | ⟨-, rfl⟩ | ⟨-, _, _, -, -, rfl⟩ <;> rfl
  | admitFrame => rcases execAdmit_next h with ⟨_, -, rfl⟩ | ⟨_, -, rfl⟩ <;> rfl

/-- Where the engine ends a command DONE is 1 and IE is as before (R251). -/
theorem engineStep_done {s t : State} (hb : s.busy = true) (h : engineStep s = .next t) :
    t.done = true ∧ t.ie = s.ie := by
  rcases engineStep_next h with ⟨hp, -⟩ | ⟨w, -, ⟨i, -, he⟩ | ⟨e, -, rfl⟩⟩
  · rw [s.not_busy_iff.2 hp] at hb; cases hb
  · exact ⟨exec_done he, by rw [exec_frame he]⟩
  · exact ⟨rfl, rfl⟩

/-- Settles O51: completion sets DONE, a launch and a STATUS write with bit 1 clear it. -/
theorem interruptFollowsDone : Obligations.InterruptFollowsDone := by
  refine ⟨fun s => by simp [State.irq], fun s t hb h => ?_, fun s t v rest hm hb h => ?_, fun s t v rest hm hv h => ?_⟩
  · obtain ⟨hd, hie⟩ := engineStep_done hb h
    rw [State.irq, hd, hie, Bool.and_true]
  · rw [cmdWriteLaunches s v rest hm hb] at h
    cases h
    exact Bool.and_false _
  · rw [step_write hm (by decide) (by decide), writeAt_status] at h
    cases h
    simp [State.irq, hv]

/-! ### The configuration while the block runs -/

/-- `t` has the keys and the device address of `s`. -/
def State.SameConfig (s t : State) : Prop :=
  t.nwkSKey = s.nwkSKey ∧ t.appSKey = s.appSKey ∧ t.appKey = s.appKey ∧ t.devaddr = s.devaddr

theorem engineStep_config {s t : State} (h : engineStep s = .next t) : s.SameConfig t := by
  rcases engineStep_next h with ⟨-, rfl⟩ | ⟨w, -, ⟨i, -, he⟩ | ⟨e, -, rfl⟩⟩
  · exact ⟨rfl, rfl, rfl, rfl⟩
  · rw [exec_frame he]; exact ⟨rfl, rfl, rfl, rfl⟩
  · exact ⟨rfl, rfl, rfl, rfl⟩

/-- While EN = 1 the lock holds for DEVADDR and the keys, and no other register holds them (R36). -/
theorem writeReg_config {s : State} (he : s.en = true) (r : Reg) (v : Word) : s.SameConfig (s.writeReg r v) := by
  cases r with
  | ctrl => exact ⟨s.writeCtrl_nwkSKey v, s.writeCtrl_appSKey v, s.writeCtrl_appKey v, s.writeCtrl_devaddr v⟩
  | devaddr => rw [State.writeReg, State.locked_running he]; exact ⟨rfl, rfl, rfl, rfl⟩
  | key k w => rw [State.writeReg, State.locked_running he]; exact ⟨rfl, rfl, rfl, rfl⟩
  | _ => exact ⟨rfl, rfl, rfl, rfl⟩

theorem busWrite_config {addr size : Nat} {v : Word} {s t : State} (he : s.en = true)
    (h : busWrite addr size v s = .next t) : s.SameConfig t := by
  rcases busWrite_next h with rfl | ⟨off, u, -, -, rfl, ⟨-, rfl⟩ | ⟨-, -, rfl⟩ | ⟨-, -, rfl⟩⟩
  · exact ⟨rfl, rfl, rfl, rfl⟩
  · exact ⟨rfl, rfl, rfl, rfl⟩
  · exact writeReg_config he (regAt off) v
  · exact ⟨rfl, rfl, rfl, rfl⟩

/-- Settles O58, by the agent that moves. -/
theorem configurationIsFixedWhileRunning : Obligations.ConfigurationIsFixedWhileRunning := by
  intro s t he hreset h
  rcases step_next h with ⟨-, hs⟩ | ⟨m, rest, hm, hs⟩
  · exact engineStep_config hs
  · cases m with
    | engine => exact engineStep_config (s := { s with moves := rest }) hs
    | read => obtain ⟨r, d, rfl⟩ := busRead_next hs; exact ⟨rfl, rfl, rfl, rfl⟩
    | write => exact busWrite_config (s := { s with moves := rest }) he hs
    | reset => exact absurd hm (hreset rest)

/-! ### The SESS flags -/

/-- `t` has the SESS flags of `s`. -/
def State.SameSess (s t : State) : Prop := t.awaitAck = s.awaitAck ∧ t.ackPending = s.ackPending

/-- The command `i`, run from `s` to `t`, is one of the two that change the SESS flags, and changes them as R67 says. -/
def SessCommand (i : Instr) (s t : State) : Prop :=
  (∃ off len mt, i = .build off len mt ∧ t.errcode = 0 ∧ t.ackPending = false ∧
      t.awaitAck = (s.awaitAck || decide (mt = .confirmedDataUp))) ∨
    (∃ len fctrl, i = .parse len ∧ readByte s.buf 5 = some fctrl ∧ fctrl.getLsbD 5 = true ∧
      s.awaitAck = true ∧ t.awaitAck = false ∧ t.ackPending = s.ackPending)

/-- Of the types BUILD accepts only MTYPE 4 is confirmed (R116, R202). -/
theorem confirmed_of_buildAccepts {mt : MType} (h : buildAccepts mt = true) :
    confirmed mt = decide (mt = .confirmedDataUp) := by
  revert h
  cases mt <;> decide

theorem execBuild_sess {off len : Byte} {mt : MType} {s t : State} (h : execBuild off len mt s = .next t) :
    s.SameSess t ∨ SessCommand (.build off len mt) s t := by
  rcases execBuild_next h with ⟨c, -, rfl⟩ | ⟨p, hc, -, rfl⟩
  · exact .inl ⟨rfl, rfl⟩
  · obtain ⟨-, hmt, -⟩ := buildChecks_none.1 hc
    refine .inr (.inl ⟨off, len, mt, rfl, rfl, rfl, ?_⟩)
    rw [← confirmed_of_buildAccepts hmt]
    rfl

/-- PARSE clears AWAIT_ACK by an ACK bit alone, so where AWAIT_ACK changes it was 1 and the bit is 1. -/
theorem execParse_sess {len : Byte} {s t : State} (h : execParse len s = .next t) :
    s.SameSess t ∨ SessCommand (.parse len) s t := by
  rcases execParse_next h with ⟨c, -, -, rfl⟩ | ⟨-, mhdr, addr, fctrl, fcnt, -, -, hfctrl, -, hr⟩
  · exact .inl ⟨rfl, rfl⟩
  · have hawait : t.awaitAck = (s.awaitAck && !fctrl.getLsbD 5) := by rw [parseRest_frame hr]; rfl
    have hack : t.ackPending = s.ackPending := by rw [parseRest_frame hr]; rfl
    by_cases hclear : s.awaitAck = true ∧ fctrl.getLsbD 5 = true
    · obtain ⟨ha, hb⟩ := hclear
      exact .inr (.inr ⟨len, fctrl, rfl, hfctrl, hb, ha, by rw [hawait, ha, hb]; rfl, hack⟩)
    · refine .inl ⟨?_, hack⟩
      rw [hawait]
      cases ha : s.awaitAck <;> simp_all

theorem exec_sess {i : Instr} {s t : State} (h : exec i s = .next t) : s.SameSess t ∨ SessCommand i s t := by
  cases i with
  | build => exact execBuild_sess h
  | parse => exact execParse_sess h
  | mic => rw [execMic_frame h]; exact .inl ⟨rfl, rfl⟩
  | verify => rw [execVerify_frame h]; exact .inl ⟨rfl, rfl⟩
  | crypt => rw [execCrypt_frame h]; exact .inl ⟨rfl, rfl⟩
  | validate => rw [execValidate_frame h]; exact .inl ⟨rfl, rfl⟩
  | admitFrame => rw [execAdmit_frame h]; exact .inl ⟨rfl, rfl⟩

theorem engineStep_sess {s t : State} (h : engineStep s = .next t) :
    s.SameSess t ∨ ∃ w i, s.pending = some w ∧ decode w = .ok i ∧ SessCommand i s t := by
  rcases engineStep_next h with ⟨-, rfl⟩ | ⟨w, hp, ⟨i, hi, he⟩ | ⟨e, -, rfl⟩⟩
  · exact .inl ⟨rfl, rfl⟩
  · exact (exec_sess he).imp_right fun hc => ⟨w, i, hp, hi, hc⟩
  · exact .inl ⟨rfl, rfl⟩

/-- A supported access below BUF is a word access (R82). -/
theorem supported_register {off size : Nat} (h : supported off size = true) (ho : off < Config.bufOffset) : size = 4 := by
  unfold supported at h
  rw [if_pos ho, Bool.and_eq_true, beq_iff_eq] at h
  exact h.1

/-- A host write changes the SESS flags only as a word write to SESS while BUSY = 0 (R45, R67). -/
theorem busWrite_sess {addr size : Nat} {v : Word} {s t : State} (h : busWrite addr size v s = .next t) :
    s.SameSess t ∨ (addr = Config.blockBase + 0x010 ∧ size = 4 ∧ s.busy = false ∧
      t.awaitAck = v.getLsbD 0 ∧ t.ackPending = v.getLsbD 1) := by
  rcases busWrite_next h with rfl | ⟨off, u, hw, hs, rfl, ⟨-, rfl⟩ | ⟨ho, hb, rfl⟩ | ⟨-, -, rfl⟩⟩
  · exact .inl ⟨rfl, rfl⟩
  · exact .inl ⟨rfl, rfl⟩
  · by_cases hr : regAt off = .sess
    · obtain rfl := regAt_eq_sess hr
      have hidle : s.busy = false := by
        cases hbusy : s.busy
        · rfl
        · rw [hr] at hb; exact absurd (hb hbusy) (by decide)
      exact .inr ⟨(windowOffset_lt hw).2, supported_register hs ho, hidle, rfl, rfl⟩
    · exact .inl (writeReg_sess s v hr)
  · exact .inl ⟨rfl, rfl⟩

/-- Settles O59, by the agent that moves. -/
theorem onlyTheseEventsChangeSess : Obligations.OnlyTheseEventsChangeSess := by
  intro s t h hne
  have changed : ¬ s.SameSess t := fun ⟨ha, hp⟩ => hne.elim (· ha) (· hp)
  rcases step_next h with ⟨hm, hs⟩ | ⟨m, rest, hm, hs⟩
  · exact .inr (.inr ⟨.inl hm, (engineStep_sess hs).resolve_left changed⟩)
  · cases m with
    | engine =>
      exact .inr (.inr ⟨.inr ⟨rest, hm⟩, (engineStep_sess (s := { s with moves := rest }) hs).resolve_left changed⟩)
    | read => obtain ⟨r, d, rfl⟩ := busRead_next hs; exact absurd ⟨rfl, rfl⟩ changed
    | write addr size v =>
      obtain ⟨rfl, rfl, hb, ha, hp⟩ := (busWrite_sess (s := { s with moves := rest }) hs).resolve_left changed
      exact .inr (.inl ⟨rest, v, hm, hb, ha, hp⟩)
    | reset => exact .inl ⟨rest, hm⟩

end Sys2Proof.Machine
end


section
/-! The host never reads a key (R59): two states that differ in the contents of key words alone stay so, and answer alike,
under every host access and reset. -/

namespace Sys2Proof.Machine

open Sys2Proof.Claims

/-- Two outcomes the host cannot tell apart: the same fault, or the same reply and states that differ in key contents alone. -/
def SameOutcome (o o' : Result) : Prop :=
  (∀ t, o = .next t → ∃ t', o' = .next t' ∧ t'.reply = t.reply ∧ sameButKeyValues t t') ∧ ∀ f, o = .fault f → o' = .fault f

/-- The reply is no key word, so it is the same. -/
theorem SameOutcome.next {t t' : State} (h : sameButKeyValues t t') : SameOutcome (.next t) (.next t') := by
  refine ⟨fun u hu => ?_, fun f hf => by cases hf⟩
  cases hu
  exact ⟨t', rfl, by rw [h.1], h⟩

theorem SameOutcome.fault (f : Fault) : SameOutcome (.fault f) (.fault f) :=
  ⟨fun t ht => by (cases ht), fun _ h => h⟩

/-! ### Reads -/

/-- KEYV tells the WRITTEN bits alone (R43). -/
theorem keyLoaded_same {s s' : State} (h : sameButKeyValues s s') (k : KeySlot) : s'.keyLoaded k = s.keyLoaded k := by
  rw [Bool.eq_iff_iff, State.keyLoaded, State.keyLoaded, KeyRegs.loaded_iff, KeyRegs.loaded_iff]
  simp only [h.2 k]

theorem statusWord_same {s s' : State} (h : sameButKeyValues s s') : s'.statusWord = s.statusWord := by
  have hkeyv : s'.keyv = s.keyv := by simp only [State.keyv, keyLoaded_same h]
  rw [State.statusWord, hkeyv, h.1]
  rfl

/-- No register reads as a key word's contents: STATUS tells the WRITTEN bits, and key registers read 0. -/
theorem readReg_same {s s' : State} (h : sameButKeyValues s s') (r : Reg) : s'.readReg r = s.readReg r := by
  cases r with
  | status => exact statusWord_same h
  | _ => rw [h.1]; rfl

theorem busy_same {s s' : State} (h : sameButKeyValues s s') : s'.busy = s.busy := by rw [h.1]; rfl

theorem en_same {s s' : State} (h : sameButKeyValues s s') : s'.en = s.en := by rw [h.1]

theorem answer_same {s s' : State} (h : sameButKeyValues s s') (v : Word) : SameOutcome (answer s v) (answer s' v) :=
  SameOutcome.next ⟨by rw [h.1], h.2⟩

theorem answerDraw_same {s s' : State} (h : sameButKeyValues s s') (size : Nat) :
    SameOutcome (answerDraw s size) (answerDraw s' size) :=
  SameOutcome.next ⟨by rw [h.1], h.2⟩

theorem readAt_same {s s' : State} (h : sameButKeyValues s s') (off size : Nat) :
    SameOutcome (readAt off size s) (readAt off size s') := by
  have hbuf : s'.buf = s.buf := by rw [h.1]
  unfold readAt
  split
  · unfold readRegister
    rw [busy_same h, readReg_same h]
    split
    · exact answerDraw_same h 4
    · exact answer_same h _
  · unfold readBuffer
    rw [busy_same h, hbuf]
    split
    · exact answerDraw_same h size
    · split
      · exact answer_same h _
      · exact SameOutcome.fault _

/-! ### Writes -/

theorem writeKey_same {s s' : State} (h : sameButKeyValues s s') (k : KeySlot) (w : Fin 4) (v : Word) :
    sameButKeyValues (s.writeKey k w v) (s'.writeKey k w v) := by
  refine ⟨?_, fun k' w' => ?_⟩
  · rw [h.1]; cases k <;> rfl
  · rw [State.keyRegs_writeKey, State.keyRegs_writeKey]
    split
    · rw [KeyRegs.word_writeWord, KeyRegs.word_writeWord]
      split
      · rfl
      · exact h.2 k w'
    · exact h.2 k' w'

theorem writeCtrl_same {s s' : State} (h : sameButKeyValues s s') (v : Word) :
    sameButKeyValues (s.writeCtrl v) (s'.writeCtrl v) := by
  have habort : (s'.busy && s'.en && !v.getLsbD 0) = (s.busy && s.en && !v.getLsbD 0) := by rw [busy_same h, en_same h]
  cases ha : s.busy && s.en && !v.getLsbD 0
  · rw [s.writeCtrl_plain v ha, s'.writeCtrl_plain v (habort.trans ha)]
    exact ⟨by rw [h.1], h.2⟩
  · rw [s.writeCtrl_abort v ha, s'.writeCtrl_abort v (habort.trans ha)]
    exact ⟨by rw [h.1]; rfl, h.2⟩

/-- The lock looks at EN alone (R36). -/
theorem locked_same {s s' t t' : State} (h : sameButKeyValues s s') (ht : sameButKeyValues t t') :
    sameButKeyValues (s.locked t) (s'.locked t') := by
  cases he : s.en
  · rw [State.locked_stopped he, State.locked_stopped ((en_same h).trans he)]
    exact ht
  · rw [State.locked_running he, State.locked_running ((en_same h).trans he)]
    exact ⟨by rw [h.1], h.2⟩

theorem writeReg_same {s s' : State} (h : sameButKeyValues s s') (r : Reg) (v : Word) :
    sameButKeyValues (s.writeReg r v) (s'.writeReg r v) := by
  cases r with
  | ctrl => exact writeCtrl_same h v
  | devaddr => exact locked_same h ⟨by rw [h.1], h.2⟩
  | key k w => exact locked_same h (writeKey_same h k w v)
  | _ => exact ⟨by rw [h.1]; rfl, h.2⟩

theorem written_same {s s' : State} (h : sameButKeyValues s s') : SameOutcome (written s) (written s') :=
  SameOutcome.next ⟨by rw [h.1], h.2⟩

theorem writeAt_same {s s' : State} (h : sameButKeyValues s s') (off size : Nat) (v : Word) :
    SameOutcome (writeAt off size v s) (writeAt off size v s') := by
  have hdrop : sameButKeyValues s.dropBusy s'.dropBusy := ⟨by rw [h.1]; rfl, h.2⟩
  have hstore (k : Nat) (d : List Byte) : sameButKeyValues (s.memWrite k d) (s'.memWrite k d) := ⟨by rw [h.1]; rfl, h.2⟩
  unfold writeAt
  split
  · unfold writeRegister
    rw [busy_same h]
    split
    · exact written_same hdrop
    · exact written_same (writeReg_same h _ v)
  · unfold writeBuffer
    rw [busy_same h]
    split
    · exact written_same hdrop
    · exact written_same (hstore _ _)

/-! ### Moves -/

/-- The address check looks at no register. -/
theorem withOffset_same {s s' : State} (h : sameButKeyValues s s') (addr size : Nat) {body body' : Nat → Result}
    (hb : ∀ off, SameOutcome (body off) (body' off)) :
    SameOutcome (withOffset addr size s body) (withOffset addr size s' body') := by
  unfold withOffset
  split
  · exact SameOutcome.next ⟨by rw [h.1], h.2⟩
  · split
    · exact hb _
    · exact SameOutcome.fault _

theorem assertReset_same {s s' : State} (h : sameButKeyValues s s') : s'.assertReset = s.assertReset := by
  rw [h.1]; rfl

/-- Every move but the engine's, which alone uses key contents. -/
theorem runMove_same {s s' : State} (h : sameButKeyValues s s') {m : Move} (hm : m ≠ .engine) :
    SameOutcome (runMove m s) (runMove m s') := by
  cases m with
  | engine => exact absurd rfl hm
  | read addr size => exact withOffset_same h addr size fun off => readAt_same h off size
  | write addr size v => exact withOffset_same h addr size fun off => writeAt_same h off size v
  | reset =>
    rw [runMove, runMove, assertReset_same h]
    exact SameOutcome.next ⟨rfl, fun _ _ => rfl⟩

/-- Settles O60: the schedule is the same in both states, so both take the same move. -/
theorem hostNeverReadsKeys : Obligations.HostNeverReadsKeys := by
  intro s s' m rest h hm hne
  have hm' : s'.moves = m :: rest := by rw [h.1]; exact hm
  have hrest : sameButKeyValues { s with moves := rest } { s' with moves := rest } := ⟨by rw [h.1], h.2⟩
  rw [step_cons hm, step_cons hm']
  exact runMove_same hrest hne

end Sys2Proof.Machine
end


section
/-! The window on the bus: which accesses R82 allows, what reads and writes do while BUSY = 1, and the buffer's accesses. -/

namespace Sys2Proof.Machine

open Sys2Proof.Claims

/-! ### Supported accesses -/

/-- Inside the window the accesses the block supports are those R82 allows. -/
theorem supported_iff_legalAccess {off size : Nat} (hw : off < Config.windowSize) :
    supported off size = true ↔ legalAccess off size := by
  unfold supported legalAccess
  simp only [Config.windowSize, Config.bufOffset] at hw ⊢
  split
  · simp only [Bool.and_eq_true, beq_iff_eq]; omega
  · simp only [Bool.and_eq_true, Bool.or_eq_true, beq_iff_eq]; omega

theorem legalAccess_lt {off size : Nat} (h : legalAccess off size) : off < Config.windowSize := by
  simp only [Config.windowSize]
  rcases h with ⟨ho, -⟩ | ⟨-, ho, -⟩ <;> omega

/-- Register accesses are word accesses at word offsets (R82). -/
theorem legalAccess_register {off size : Nat} (h : legalAccess off size) (ho : off < 0x100) : size = 4 ∧ off % 4 = 0 := by
  rcases h with ⟨-, hr⟩ | ⟨hbuf, -⟩
  · exact hr
  · omega

theorem step_legalRead {s : State} {off size : Nat} {rest : List Move}
    (hm : s.moves = .read (Config.blockBase + off) size :: rest) (hl : legalAccess off size) :
    step s = readAt off size { s with moves := rest } :=
  step_read hm (legalAccess_lt hl) ((supported_iff_legalAccess (legalAccess_lt hl)).2 hl)

theorem step_legalWrite {s : State} {off size : Nat} {v : Word} {rest : List Move}
    (hm : s.moves = .write (Config.blockBase + off) size v :: rest) (hl : legalAccess off size) :
    step s = writeAt off size v { s with moves := rest } :=
  step_write hm (legalAccess_lt hl) ((supported_iff_legalAccess (legalAccess_lt hl)).2 hl)

/-- An unsupported access of the window gets a bus error before it reads or writes anything (R83). -/
theorem withOffset_illegal {off size : Nat} (hw : off < Config.windowSize) (hl : ¬ legalAccess off size) (s : State)
    (body : Nat → Result) :
    withOffset (Config.blockBase + off) size s body = .fault (.busError (Config.blockBase + off)) := by
  have hs : ¬ supported off size = true := fun h => hl ((supported_iff_legalAccess hw).1 h)
  simp only [withOffset, windowOffset_base hw, if_neg hs]

/-- Settles O53: reads and writes share the address check. -/
theorem unsupportedAccessesFault : Obligations.UnsupportedAccessesFault := by
  intro s off size rest hw hl
  refine ⟨fun hm => ?_, fun v hm => ?_⟩ <;> rw [step_cons hm]
  · exact withOffset_illegal hw hl _ _
  · exact withOffset_illegal hw hl _ _

/-- Settles O46: the move taken is a bus read. -/
theorem readsHaveNoSideEffects : Obligations.ReadsHaveNoSideEffects := by
  intro s t addr size rest hm h
  rw [step_cons hm] at h
  obtain ⟨r, d, rfl⟩ := busRead_next (s := { s with moves := rest }) h
  rfl

/-! ### Accesses while BUSY = 1 -/

/-- A busy write to the buffer, or to a register other than CTRL and STATUS, is dropped (R93). -/
theorem writeAt_dropped {off size : Nat} (v : Word) {s : State} (hb : s.busy = true)
    (hr : off < 0x100 → (regAt off).writableWhileBusy = false) : writeAt off size v s = written s.dropBusy := by
  unfold writeAt
  split
  · next ho => simp [writeRegister, hb, hr ho]
  · simp [writeBuffer, hb]

/-- A CTRL write while BUSY = 1 ends the command with code 7 exactly where it takes EN from 1 to 0 (R257). -/
theorem State.writeCtrl_busy {s : State} (hb : s.busy = true) (v : Word) :
    s.writeCtrl v = { s with
      en := v.getLsbD 0
      ie := v.getLsbD 1
      pending := if s.en = true ∧ v.getLsbD 0 = false then none else s.pending
      done := if s.en = true ∧ v.getLsbD 0 = false then true else s.done
      errcode := if s.en = true ∧ v.getLsbD 0 = false then 7 else s.errcode } := by
  by_cases hstop : s.en = true ∧ v.getLsbD 0 = false
  · simp only [if_pos hstop]
    exact s.writeCtrl_abort v (by rw [hb, hstop.1, hstop.2]; rfl)
  · simp only [if_neg hstop]
    exact s.writeCtrl_plain v (by simpa [hb] using hstop)

/-- Settles O41: CTRL and STATUS are the only registers writable while BUSY = 1. -/
theorem busyWritesAreDropped : Obligations.BusyWritesAreDropped := by
  intro s off size v rest hm hl hb
  rw [step_legalWrite hm hl]
  refine ⟨fun hctrl hstatus => ?_, ?_, ?_⟩
  · refine writeAt_dropped (s := { s with moves := rest }) v hb fun ho => ?_
    rw [← Bool.not_eq_true, regAt_writableWhileBusy (legalAccess_register hl ho).2 ho]
    exact not_or.2 ⟨hctrl, hstatus⟩
  · rintro rfl
    rw [writeAt_ctrl, State.writeCtrl_busy (s := { s with moves := rest }) hb]
    rfl
  · rintro rfl
    exact writeAt_status size v _

/-- The registers whose reads R95 defines while BUSY = 1: those below SESS and those above RX_LAYOUT. -/
theorem regAt_definedWhileBusy {off : Nat} (h4 : off % 4 = 0) (ho : off < 0x100) :
    (regAt off).definedWhileBusy = true ↔ off < 0x010 ∨ 0x048 ≤ off := by
  obtain ⟨n, rfl⟩ : ∃ n, off = 4 * n := ⟨off / 4, by omega⟩
  have all : ∀ n : Fin 64, (regAt (4 * n.val)).definedWhileBusy = true ↔ 4 * n.val < 0x010 ∨ 0x048 ≤ 4 * n.val := by
    decide
  exact all ⟨n, by omega⟩

/-- A read of a register that is defined while BUSY = 1 answers the register's word, BUSY or not. -/
theorem step_readDefined {s : State} {off size : Nat} {rest : List Move}
    (hm : s.moves = .read (Config.blockBase + off) size :: rest) (hl : legalAccess off size) (ho : off < 0x100)
    (hd : off < 0x010 ∨ 0x048 ≤ off) :
    step s = .next { s with moves := rest, reply := .data (s.readReg (regAt off)) } := by
  rw [step_legalRead hm hl]
  exact readAt_defined { s with moves := rest } ho ((regAt_definedWhileBusy (legalAccess_register hl ho).2 ho).2 hd)

/-- Every other busy read is a draw as wide as the access (R95). -/
theorem readAt_draw {off size : Nat} {s : State} (hl : legalAccess off size) (hb : s.busy = true)
    (hd : (0x010 ≤ off ∧ off ≤ 0x044) ∨ 0x100 ≤ off) : readAt off size s = answerDraw s size := by
  rcases hl with ⟨ho, rfl, h4⟩ | ⟨hbuf, -⟩
  · have hr : ¬ (regAt off).definedWhileBusy = true := by rw [regAt_definedWhileBusy h4 ho]; omega
    simp [readAt, readRegister, ho, hb, hr]
  · simp [readAt, readBuffer, Nat.not_lt.2 hbuf, hb]

/-- Settles O47: the offsets of the defined reads, then those of the draws. -/
theorem busyReads : Obligations.BusyReads := by
  intro s off size rest hm hl hb
  refine ⟨?_, ?_, ?_, ?_, fun hlow ho => ?_, fun hd => ?_⟩
  · rintro rfl; exact step_readDefined hm hl (by decide) (by decide)
  · rintro rfl; exact step_readDefined hm hl (by decide) (by decide)
  · rintro rfl; exact step_readDefined hm hl (by decide) (by decide)
  · rintro rfl; exact step_readDefined hm hl (by decide) (by decide)
  · rw [step_readDefined hm hl ho (.inr hlow), readReg_keys_reserved s hlow ho (legalAccess_register hl ho).2]
  · rw [step_legalRead hm hl]
    exact readAt_draw (s := { s with moves := rest }) hl hb hd

/-! ### The buffer while BUSY = 0 -/

theorem readAt_buffer_written {k size : Nat} {s : State} {d : List Byte} (hb : s.busy = false)
    (hd : readBytes s.buf k size = some d) : readAt (0x100 + k) size s = answer s (wordOfLE d) := by
  simp [readAt, readBuffer, hb, hd]

theorem readAt_buffer_unwritten {k size : Nat} {s : State} (hb : s.busy = false)
    (hd : readBytes s.buf k size = none) :
    readAt (0x100 + k) size s = .fault (.uninitRead (Config.blockBase + (0x100 + k))) := by
  simp [readAt, readBuffer, hb, hd]

theorem writeAt_buffer {k size : Nat} (v : Word) {s : State} (hb : s.busy = false) :
    writeAt (0x100 + k) size v s = written (s.memWrite k ((le32 v).take size)) := by
  simp [writeAt, writeBuffer, hb]

/-- Byte `j` of LE32(v) (R20). -/
theorem getElem_le32 (v : Word) {j : Nat} (h : j < (le32 v).length) : (le32 v)[j] = v.extractLsb' (8 * j) 8 := by
  match j, h with
  | 0, _ | 1, _ | 2, _ | 3, _ => rfl

/-- Settles O52: the bytes stored are the first `size` of LE32(v), and a range read tells written from unwritten ranges. -/
theorem bufferAccessesAreLittleEndian : Obligations.BufferAccessesAreLittleEndian := by
  intro s k size rest hb hl
  have hsize : size ≤ 4 := by rcases hl with ⟨ho, -⟩ | ⟨-, -, hs, -⟩ <;> omega
  refine ⟨fun v hm => ?_, fun hm => ⟨fun d hd => ?_, fun j hj hnone => ?_⟩⟩
  · have hlen : ((le32 v).take size).length = size := by simp [hsize]
    refine ⟨_, (step_legalWrite hm hl).trans (writeAt_buffer (s := { s with moves := rest }) v hb), rfl,
      fun j hj => ?_, fun a ha => ?_⟩
    · have hin := readByte_writeBytes_inside (m := s.buf) (k := k) (hj.trans_eq hlen.symm)
      rwa [List.getElem_take, getElem_le32] at hin
    · exact readByte_writeBytes_outside (by rwa [hlen])
  · rw [step_legalRead hm hl]
    exact readAt_buffer_written (s := { s with moves := rest }) hb hd
  · have hfail : readBytes s.buf k size = none := (readBytes_eq_none s.buf k size).2 ⟨j, hj, hnone⟩
    rw [step_legalRead hm hl]
    exact readAt_buffer_unwritten (s := { s with moves := rest }) hb hfail

end Sys2Proof.Machine
end

section
/-! The command word: where its fields stand, that decoder and encoder undo each other, and the strict masks of R119. -/

namespace Sys2Proof

/-! ### The fields of a word (R110) -/

/-- A slice of a word as a quotient and a remainder (R18, R21). -/
theorem toNat_slice (w : Word) (start len : Nat) :
    (w.extractLsb' start len).toNat = w.toNat / 2 ^ start % 2 ^ len := by
  rw [BitVec.extractLsb'_toNat, Nat.shiftRight_eq_div_pow]

theorem reservedClear_iff {w : Word} :
    reservedClear w = true ↔ w.extractLsb' 7 1 = 0 ∧ w.extractLsb' 27 5 = 0 := by
  simp [reservedClear]

/-- Settles O1: each field is a slice of the word, and nothing stands above bit 31. -/
theorem commandWordFields : Obligations.CommandWordFields := by
  intro w
  have hop : (opField w).toNat = w.toNat % 16 := by simp [opField]
  have htop : w.toNat / 2 ^ 27 < 2 ^ 5 := by omega
  have hreserved : reservedClear w = true ↔ w.toNat / 2 ^ 7 % 2 = 0 ∧ w.toNat / 2 ^ 27 = 0 := by
    rw [reservedClear_iff, ← BitVec.toNat_inj, ← BitVec.toNat_inj, toNat_slice, toNat_slice, Nat.mod_eq_of_lt htop]
    rfl
  have slice := toNat_slice w
  exact ⟨hop, slice 4 2, slice 6 1, slice 8 8, slice 16 8, slice 24 3, hreserved⟩

/-- Bit 7 and bits 31:27 of a word whose reserved bits are clear (R117). -/
theorem getElem_of_reservedClear {w : Word} (h : reservedClear w = true) {i : Nat} (hlt : i < 32)
    (hi : i = 7 ∨ 27 ≤ i) : w[i] = false := by
  obtain ⟨h7, h27⟩ := reservedClear_iff.1 h
  rcases hi with rfl | hi
  · simpa using congrArg (·[0]) h7
  · have hlow : i - 27 < 5 := by omega
    simpa [Nat.add_sub_cancel' hi, BitVec.getLsbD_eq_getElem hlt] using congrArg (·[i - 27]) h27

/-- A word with clear reserved bits is its fields laid out again: the fields and the reserved bits are all 32 bits. -/
theorem pack_fields {w : Word} (h : reservedClear w = true) :
    pack (mtypeField w) (lenField w) (offField w) (dirField w) (kselField w) (opField w) = w := by
  apply BitVec.eq_of_getLsbD_eq
  intro i hi
  have hbit := fun hres => getElem_of_reservedClear h hi hres
  interval_cases i <;>
    simp [pack, place, mtypeField, lenField, offField, dirField, kselField, opField, hbit]

/-- The row of MIC, VERIFY and CRYPT: its operands and OP are the whole word (R118). -/
theorem pack_primitive {w : Word} {op : BitVec 4} (hr : reservedClear w = true) (ho : opField w = op)
    (hm : mtypeField w = 0) :
    pack 0 (lenField w) (offField w) (Dir.ofBits (dirField w)).num (KSel.ofBits (kselField w)).num op = w := by
  simpa [ho, hm] using pack_fields hr

/-- The row of BUILD. -/
theorem pack_build {w : Word} {op : BitVec 4} (hr : reservedClear w = true) (ho : opField w = op)
    (hk : kselField w = 0) (hd : dirField w = 0) :
    pack (MType.ofBits (mtypeField w)).num (lenField w) (offField w) 0 0 op = w := by
  simpa [ho, hk, hd] using pack_fields hr

/-- The row of VALIDATE, PARSE and ADMIT. -/
theorem pack_frame {w : Word} {op : BitVec 4} (hr : reservedClear w = true) (ho : opField w = op)
    (hk : kselField w = 0) (hd : dirField w = 0) (hoff : offField w = 0) (hm : mtypeField w = 0) :
    pack 0 (lenField w) 0 0 0 op = w := by
  simpa [ho, hk, hd, hoff, hm] using pack_fields hr

/-! ### The decoder and the encoder undo each other -/

/-- The decoder on a packed word of MIC, VERIFY or CRYPT: OP selects the command, and each operand reads back (R118). -/
theorem decode_pack_primitive (ksel : KSel) (dir : Dir) (off len : Byte) :
    decode (pack 0 len off dir.num ksel.num 1) = .ok (.mic ksel dir off len) ∧
    decode (pack 0 len off dir.num ksel.num 2) = .ok (.verify ksel dir off len) ∧
    decode (pack 0 len off dir.num ksel.num 3) = .ok (.crypt ksel dir off len) := by
  simp [decode, accept, primitiveFieldsClear, primitiveOf]

/-- The decoder on a packed word of BUILD. -/
theorem decode_pack_build (off len : Byte) (mtype : MType) :
    decode (pack mtype.num len off 0 0 4) = .ok (.build off len mtype) := by
  simp [decode, accept, buildFieldsClear]

/-- The decoder on a packed word of VALIDATE, PARSE or ADMIT. -/
theorem decode_pack_frame (len : Byte) :
    decode (pack 0 len 0 0 0 5) = .ok (.validate len) ∧ decode (pack 0 len 0 0 0 6) = .ok (.parse len) ∧
    decode (pack 0 len 0 0 0 7) = .ok (.admitFrame len) := by
  simp [decode, accept, frameFieldsClear]

/-- Settles O3: each command's word is a packed word of its row. -/
theorem decodeEncodeEveryCommand : Obligations.DecodeEncodeEveryCommand := by
  intro i
  cases i with
  | mic ksel dir off len => exact (decode_pack_primitive ksel dir off len).1
  | verify ksel dir off len => exact (decode_pack_primitive ksel dir off len).2.1
  | crypt ksel dir off len => exact (decode_pack_primitive ksel dir off len).2.2
  | build off len mtype => exact decode_pack_build off len mtype
  | validate len => exact (decode_pack_frame len).1
  | parse len => exact (decode_pack_frame len).2.1
  | admitFrame len => exact (decode_pack_frame len).2.2

/-- Settles O4: the row has 0 in the fields its command does not read, so its operands and OP are the whole word. -/
theorem acceptedWordsEncodeBack : Obligations.AcceptedWordsEncodeBack := by
  intro w i h
  obtain ⟨hr, ⟨ho, hm, rfl⟩ | ⟨ho, hm, rfl⟩ | ⟨ho, hm, rfl⟩ | ⟨ho, hk, hd, rfl⟩ |
    ⟨hk, hd, hoff, hm, ⟨ho, rfl⟩ | ⟨ho, rfl⟩ | ⟨ho, rfl⟩⟩⟩ := decode_ok h
  · exact pack_primitive hr ho hm
  · exact pack_primitive hr ho hm
  · exact pack_primitive hr ho hm
  · exact pack_build hr ho hk hd
  · exact pack_frame hr ho hk hd hoff hm
  · exact pack_frame hr ho hk hd hoff hm
  · exact pack_frame hr ho hk hd hoff hm

/-- A word has a meaning exactly where it is the word of that command (R110, R118). -/
theorem decode_eq_ok_iff {w : Word} {i : Instr} : decode w = .ok i ↔ encode i = w :=
  ⟨acceptedWordsEncodeBack w i, fun h => h ▸ decodeEncodeEveryCommand i⟩

/-- Settles O2: each word of the table is the one the encoder lays out for its command. -/
theorem exampleWordsDecode : Obligations.ExampleWordsDecode := by
  simp only [Obligations.ExampleWordsDecode, decode_eq_ok_iff]
  decide

/-! ### The strict masks (R119) -/

/-- A slice the mask covers is the same in the word and in the masked word. -/
theorem slice_of_and_eq {w mask v : Word} (h : w &&& mask = v) {start len : Nat}
    (hm : mask.extractLsb' start len = BitVec.allOnes len) : w.extractLsb' start len = v.extractLsb' start len := by
  rw [← h, BitVec.extractLsb'_and, hm, BitVec.and_allOnes]

section

variable {w mask : Word} {op : BitVec 4} (h : w &&& mask = op.setWidth 32)
include h

/-- A match value has only OP's bits, so a slice above OP that the mask covers is 0. -/
theorem slice_eq_zero_of_mask {start len : Nat} (hs : 4 ≤ start)
    (hm : mask.extractLsb' start len = BitVec.allOnes len) : w.extractLsb' start len = 0 := by
  rw [slice_of_and_eq h hm]
  apply BitVec.eq_of_getLsbD_eq
  intro i hi
  simp [BitVec.getLsbD_of_ge op (start + i) (by omega)]

theorem opField_of_mask (hm : opField mask = BitVec.allOnes 4) : opField w = op := by
  rw [opField, slice_of_and_eq h hm]
  exact (by decide : ∀ b : BitVec 4, (b.setWidth 32).extractLsb' 0 4 = b) op

theorem reservedClear_of_mask (h7 : mask.extractLsb' 7 1 = BitVec.allOnes 1)
    (h27 : mask.extractLsb' 27 5 = BitVec.allOnes 5) : reservedClear w = true :=
  reservedClear_iff.2 ⟨slice_eq_zero_of_mask h (by decide) h7, slice_eq_zero_of_mask h (by decide) h27⟩

end

/-- The strict mask of MIC, VERIFY and CRYPT covers the reserved bits, OP and MTYPE. -/
theorem pack_of_primitive_mask {w : Word} {op : BitVec 4} (h : w &&& 0xFF00008F = op.setWidth 32) :
    pack 0 (lenField w) (offField w) (Dir.ofBits (dirField w)).num (KSel.ofBits (kselField w)).num op = w :=
  pack_primitive (reservedClear_of_mask h rfl rfl) (opField_of_mask h rfl) (slice_eq_zero_of_mask h (by decide) rfl)

/-- The strict mask of BUILD covers the reserved bits, OP, KSEL and DIR. -/
theorem pack_of_build_mask {w : Word} {op : BitVec 4} (h : w &&& 0xF80000FF = op.setWidth 32) :
    pack (MType.ofBits (mtypeField w)).num (lenField w) (offField w) 0 0 op = w :=
  pack_build (reservedClear_of_mask h rfl rfl) (opField_of_mask h rfl) (slice_eq_zero_of_mask h (by decide) rfl)
    (slice_eq_zero_of_mask h (by decide) rfl)

/-- The strict mask of VALIDATE, PARSE and ADMIT covers all but LEN. -/
theorem pack_of_frame_mask {w : Word} {op : BitVec 4} (h : w &&& 0xFF00FFFF = op.setWidth 32) :
    pack 0 (lenField w) 0 0 0 op = w :=
  pack_frame (reservedClear_of_mask h rfl rfl) (opField_of_mask h rfl) (slice_eq_zero_of_mask h (by decide) rfl)
    (slice_eq_zero_of_mask h (by decide) rfl) (slice_eq_zero_of_mask h (by decide) rfl)
    (slice_eq_zero_of_mask h (by decide) rfl)

/-- KSEL = 3 is the one value that names no slot (R112). -/
theorem namesSlot_iff (k : KSel) : k.namesSlot = true ↔ k.num ≠ 3 := by
  cases k with
  | slot k => cases k <;> decide
  | noSlot => decide

/-- BUILD accepts the message types 2 and 4 (R116). -/
theorem buildable_iff (m : MType) : m.buildable = true ↔ m.num = 2 ∨ m.num = 4 := by
  cases m <;> decide

/-- The rows of R119 with the value constraints of R118, as `Obligations.StrictMasksSelectRows` writes them. -/
def PassesStrictMask (w : Word) : Prop :=
  ((w &&& 0xFF00008F = 1 ∨ w &&& 0xFF00008F = 2 ∨ w &&& 0xFF00008F = 3) ∧ kselField w ≠ 3) ∨
  (w &&& 0xF80000FF = 4 ∧ (mtypeField w = 2 ∨ mtypeField w = 4)) ∨
  (w &&& 0xFF00FFFF = 5 ∨ w &&& 0xFF00FFFF = 6 ∨ w &&& 0xFF00FFFF = 7)

/-- A well-formed command's word passes its row of R119. -/
theorem masks_of_wellFormed {i : Instr} (hi : i.wellFormed = true) : PassesStrictMask (encode i) := by
  cases i with
  | mic ksel dir off len =>
    exact .inl ⟨.inl (Laws.TableMatch.mic ..), by simpa [encode] using (namesSlot_iff ksel).1 hi⟩
  | verify ksel dir off len =>
    exact .inl ⟨.inr (.inl (Laws.TableMatch.verify ..)), by simpa [encode] using (namesSlot_iff ksel).1 hi⟩
  | crypt ksel dir off len =>
    exact .inl ⟨.inr (.inr (Laws.TableMatch.crypt ..)), by simpa [encode] using (namesSlot_iff ksel).1 hi⟩
  | build off len mtype =>
    exact .inr (.inl ⟨Laws.TableMatch.build .., by simpa [encode] using (buildable_iff mtype).1 hi⟩)
  | validate len => exact .inr (.inr (.inl (Laws.TableMatch.validate len)))
  | parse len => exact .inr (.inr (.inr (.inl (Laws.TableMatch.parse len))))
  | admitFrame len => exact .inr (.inr (.inr (.inr (Laws.TableMatch.admitFrame len))))

/-- A word that passes a row of R119 is the well-formed command the row names, with the operands its fields give. -/
theorem wellFormed_of_masks {w : Word} (hw : PassesStrictMask w) : ∃ i, decode w = .ok i ∧ i.wellFormed = true := by
  have hslot : kselField w ≠ 3 → (KSel.ofBits (kselField w)).namesSlot = true := by simp [namesSlot_iff]
  have hmtype : mtypeField w = 2 ∨ mtypeField w = 4 → (MType.ofBits (mtypeField w)).buildable = true := by
    simp [buildable_iff]
  simp only [decode_eq_ok_iff]
  obtain ⟨h | h | h, hk⟩ | ⟨h, hm⟩ | h | h | h := hw
  · exact ⟨primitiveOf .mic w, pack_of_primitive_mask h, hslot hk⟩
  · exact ⟨primitiveOf .verify w, pack_of_primitive_mask h, hslot hk⟩
  · exact ⟨primitiveOf .crypt w, pack_of_primitive_mask h, hslot hk⟩
  · exact ⟨.build (offField w) (lenField w) (.ofBits (mtypeField w)), pack_of_build_mask h, hmtype hm⟩
  · exact ⟨.validate (lenField w), pack_of_frame_mask h, rfl⟩
  · exact ⟨.parse (lenField w), pack_of_frame_mask h, rfl⟩
  · exact ⟨.admitFrame (lenField w), pack_of_frame_mask h, rfl⟩

@[simp] theorem opField_encode (i : Instr) : opField (encode i) = i.op := by
  cases i <;> exact opField_pack ..

/-- Settles O5: a word that decodes is its command's encoding, which passes the command's row; a word that passes a row
is that row's command laid out again. -/
theorem strictMasksSelectRows : Obligations.StrictMasksSelectRows := by
  intro w
  refine ⟨⟨?_, wellFormed_of_masks⟩, fun i hi => ?_⟩
  · rintro ⟨i, hi, hwf⟩
    obtain rfl := decode_eq_ok_iff.1 hi
    exact masks_of_wellFormed hwf
  · obtain rfl := decode_eq_ok_iff.1 hi
    exact (opField_encode i).symm

end Sys2Proof
end

section
/-! The cryptographic primitives: AES-128 and its key schedule, CMAC, the LoRaWAN blocks, and the payload cipher
(R140 to R156). -/

namespace Sys2Proof.Machine

open Sys2Proof.Claims

/-! ### The S-box (R141) -/

/-- The affine map of R141. -/
def affine (b : Byte) : Byte :=
  b ^^^ b.rotateLeft 1 ^^^ b.rotateLeft 2 ^^^ b.rotateLeft 3 ^^^ b.rotateLeft 4 ^^^ 0x63

/-- The inverse of the affine map of R141. -/
def affineInverse (x : Byte) : Byte := x.rotateLeft 1 ^^^ x.rotateLeft 3 ^^^ x.rotateLeft 6 ^^^ 0x05

theorem affine_affineInverse (x : Byte) : affine (affineInverse x) = x := by
  revert x
  decide

/-- What the table of R141 holds: each nonzero byte is inverted before the affine map. -/
theorem gfMul_affineInverse_sbox (a : Byte) (ha : a ≠ 0) : gfMul a (affineInverse (sbox a)) 8 = 1 := by
  revert a
  decide

/-- Settles O33: the byte that the affine map takes to SBOX[a] is the inverse of a. -/
theorem sboxIsAffineInverse : Obligations.SboxIsAffineInverse := by
  intro a
  refine ⟨affineInverse (sbox a), ?_, (affine_affineInverse (sbox a)).symm⟩
  by_cases ha : a = 0
  · subst ha
    exact .inl ⟨rfl, by decide⟩
  · exact .inr (gfMul_affineInverse_sbox a ha)

/-! ### The key schedule (R144) -/

/-- The four words laid side by side. -/
theorem keyWord_placed (a b c d : Word) (x : Block)
    (hx : x = place 128 a 96 ||| place 128 b 64 ||| place 128 c 32 ||| place 128 d 0) :
    keyWord x 0 = a ∧ keyWord x 1 = b ∧ keyWord x 2 = c ∧ keyWord x 3 = d := by
  have ha := a.isLt
  have hb := b.isLt
  have hc := c.isLt
  have hd := d.isLt
  have h0 : (place 128 d 0).toNat = d.toNat := by rw [toNat_place d 0 (by decide)]; omega
  have h1 := toNat_place_or c (k := 32) (y := place 128 d 0) (by decide) (by omega)
  have h2 := toNat_place_or b (k := 64) (y := place 128 c 32 ||| place 128 d 0) (by decide) (by omega)
  have h3 := toNat_place_or a (k := 96) (y := place 128 b 64 ||| (place 128 c 32 ||| place 128 d 0)) (by decide) (by omega)
  rw [BitVec.or_assoc, BitVec.or_assoc] at hx
  rw [← hx] at h3
  have hslice (i : Nat) : (keyWord x i).toNat = x.toNat / 2 ^ (32 * (3 - i)) % 2 ^ 32 := by
    rw [keyWord, BitVec.extractLsb'_toNat, Nat.shiftRight_eq_div_pow]
  have s0 := hslice 0
  have s1 := hslice 1
  have s2 := hslice 2
  have s3 := hslice 3
  refine ⟨?_, ?_, ?_, ?_⟩ <;> apply BitVec.eq_of_toNat_eq <;> omega

/-- The first word of the next round key. -/
theorem keyWord_nextRoundKey_zero (k : Block) (rc : Byte) :
    keyWord (nextRoundKey k rc) 0 = keyWord k 0 ^^^ (subWord (rotWord (keyWord k 3)) ^^^ place 32 rc 24) := by
  rw [← BitVec.xor_assoc]
  exact (keyWord_placed _ _ _ _ _ rfl).1

/-- Each later word of the next round key. -/
theorem keyWord_nextRoundKey_succ (k : Block) (rc : Byte) {w : Nat} (hw : w < 3) :
    keyWord (nextRoundKey k rc) (w + 1) = keyWord k (w + 1) ^^^ keyWord (nextRoundKey k rc) w := by
  obtain ⟨h0, h1, h2, h3⟩ := keyWord_placed _ _ _ _ (nextRoundKey k rc) rfl
  match w, hw with
  | 0, _ => rw [h1, h0]
  | 1, _ => rw [h2, h1]
  | 2, _ => rw [h3, h2]

@[simp] theorem length_laterRoundKeys (k : Block) (rcs : List Byte) : (laterRoundKeys k rcs).length = rcs.length := by
  induction rcs generalizing k with
  | nil => rfl
  | cons rc rcs ih => simp [laterRoundKeys, ih]

/-- Each later round key is made from the one before it. -/
theorem getD_laterRoundKeys (k : Block) (rcs : List Byte) {r : Nat} (hr : r < rcs.length) :
    (k :: laterRoundKeys k rcs).getD (r + 1) 0 =
      nextRoundKey ((k :: laterRoundKeys k rcs).getD r 0) (rcs.getD r 0) := by
  induction rcs generalizing k r with
  | nil => simp at hr
  | cons rc rcs ih =>
    cases r with
    | zero => rfl
    | succ r => exact ih (nextRoundKey k rc) (by simpa using hr)

theorem scheduleWord_mul_add (k : Block) (r : Nat) {w : Nat} (hw : w < 4) :
    scheduleWord k (4 * r + w) = keyWord ((roundKeys k).getD r 0) w := by
  rw [scheduleWord, show (4 * r + w) / 4 = r by omega, show (4 * r + w) % 4 = w by omega]

/-- RCON as the most significant byte of a word. -/
theorem place_rcon {r : Nat} (hr : r < 10) : place 32 (rcon.getD r 0) 24 =
    ([0x01, 0x02, 0x04, 0x08, 0x10, 0x20, 0x40, 0x80, 0x1B, 0x36] : List Word).getD r 0 <<< 24 := by
  revert r
  decide

/-- Settles O34: word 4(r + 1) + w is word w of the round key made from round key r. -/
theorem keyScheduleRecurrence : Obligations.KeyScheduleRecurrence := by
  intro k
  refine ⟨by simp [roundKeys, rcon], fun i hi => ?_, fun i hlow hhigh => ?_⟩
  · rw [← Nat.zero_add i, ← Nat.mul_zero 4, scheduleWord_mul_add k 0 hi]
    exact congrArg (k.extractLsb' · 32) (by omega)
  · obtain ⟨r, w, hw, rfl⟩ : ∃ r w, w < 4 ∧ i = 4 * (r + 1) + w := ⟨i / 4 - 1, i % 4, by omega, by omega⟩
    have hr : r < 10 := by omega
    have hnext := getD_laterRoundKeys k rcon hr
    rw [scheduleWord_mul_add k (r + 1) hw, show 4 * (r + 1) + w - 4 = 4 * r + w by omega, scheduleWord_mul_add k r hw]
    cases w with
    | zero =>
      rw [if_pos (by omega), show 4 * (r + 1) + 0 - 1 = 4 * r + 3 by omega, scheduleWord_mul_add k r (by decide),
        show (4 * (r + 1) + 0) / 4 - 1 = r by omega, ← place_rcon hr]
      exact (congrArg (keyWord · 0) hnext).trans (keyWord_nextRoundKey_zero _ _)
    | succ w =>
      rw [if_neg (by omega), show 4 * (r + 1) + (w + 1) - 1 = 4 * (r + 1) + w by omega,
        scheduleWord_mul_add k (r + 1) (by omega), roundKeys, hnext]
      exact keyWord_nextRoundKey_succ _ _ (by omega)

/-- Settles O35: the model evaluates to the answers R146 lists. -/
theorem aesKnownAnswers : Obligations.AesKnownAnswers := by
  refine ⟨?_, ?_, ?_⟩ <;> decide +kernel

/-! ### CMAC (R147 to R149) -/

/-- The bit that falls out of dbl says whether the number is at least 2^127. -/
theorem getLsbD_127 (x : Block) : x.getLsbD 127 = decide (2 ^ 127 ≤ x.toNat) := BitVec.getLsbD_last x

/-- dbl on numbers: doubling modulo 2^128, and 0x87 XORed in where the number was at least 2^127 (R147). -/
theorem toNat_dbl (x : Block) : (dbl x).toNat =
    if x.toNat < 2 ^ 127 then 2 * x.toNat else (2 * x.toNat - 2 ^ 128) ^^^ 0x87 := by
  have hx := x.isLt
  have hshift : (x <<< 1).toNat = 2 * x.toNat % 2 ^ 128 := by
    rw [BitVec.toNat_shiftLeft, Nat.shiftLeft_eq, Nat.mul_comm, Nat.pow_one]
  rw [dbl, BitVec.toNat_xor, hshift, getLsbD_127]
  by_cases h : x.toNat < 2 ^ 127
  · have hsmall : ¬ 2 ^ 127 ≤ x.toNat := by omega
    have hmod : 2 * x.toNat % 2 ^ 128 = 2 * x.toNat := Nat.mod_eq_of_lt (by omega)
    rw [if_pos h, hmod, decide_eq_false hsmall]
    exact Nat.xor_zero _
  · have hmod : 2 * x.toNat % 2 ^ 128 = 2 * x.toNat - 2 ^ 128 := by omega
    rw [if_neg h, hmod, decide_eq_true (Nat.not_lt.1 h)]
    rfl

/-- Settles O36. -/
theorem subkeysAreDoublings : Obligations.SubkeysAreDoublings := ⟨toNat_dbl, fun _ => ⟨rfl, rfl⟩⟩

theorem length_flatten_16 {blocks : List (List Byte)} (h : ∀ b ∈ blocks, b.length = 16) :
    blocks.flatten.length = 16 * blocks.length := by
  rw [List.length_flatten, List.map_eq_replicate_iff.2 h, List.sum_replicate, smul_eq_mul, Nat.mul_comm]

/-- The chain over whole blocks is a fold, and the last piece closes it (R149). -/
theorem cbcMac_flatten (k : Block) {blocks : List (List Byte)} (h : ∀ b ∈ blocks, b.length = 16) (x : Block)
    (last : List Byte) : cbcMac k blocks.length x (blocks.flatten ++ last) =
      aes k (blocks.foldl (fun x b => aes k (x ^^^ blockOfBytes b)) x ^^^ lastBlock k last) := by
  induction blocks generalizing x with
  | nil => rfl
  | cons b blocks ih =>
    obtain ⟨hb, hrest⟩ := List.forall_mem_cons.1 h
    rw [List.flatten_cons, List.append_assoc, List.length_cons, cbcMac, List.take_left' hb, List.drop_left' hb, ih hrest,
      List.foldl_cons]

/-- Settles O37: of the blocks CMAC counts, all but the last are the whole blocks given. -/
theorem cmacIsCbcMac : Obligations.CmacIsCbcMac := by
  intro k blocks last hblocks hlast hne
  have hcount : ((blocks.flatten ++ last).length - 1) / 16 = blocks.length := by
    rw [List.length_append, length_flatten_16 hblocks]
    cases blocks with
    | nil => simp; omega
    | cons b blocks =>
      have := List.length_pos_iff.2 (hne (by simp))
      omega
  rw [cmac, hcount]
  exact cbcMac_flatten k hblocks 0 last

/-! ### The LoRaWAN blocks and the MIC (R150 to R152) -/

/-- Settles O38: the direction byte is the number of the direction, and CTR_BASE is 0 (R15). -/
theorem lorawanBlocksAndMic : Obligations.LorawanBlocksAndMic := by
  intro k dir addr fcnt n data
  refine ⟨?_, ?_, rfl, length_mic4 k dir addr fcnt data⟩
  · cases dir <;> rfl
  · rw [aBlock, Config.ctrBase, Nat.zero_add]
    cases dir <;> rfl

/-! ### The payload cipher (R153 to R156) -/

/-- A byte of the keystream is a byte of the keystream block it lies in (R153). -/
theorem getElem?_keystream (k : Block) (dir : Dir) (addr fcnt : Word) {n j : Nat} (hj : j < n) :
    (keystream k dir addr fcnt n)[j]? =
      some (blockByte (aes k (blockOfBytes (aBlock dir addr fcnt (j / 16)))) (j % 16)) := by
  rw [keystream, List.getElem?_take_of_lt hj,
    getElem?_flatMap_16 _ (length_keystreamBlock k dir addr fcnt) (by omega), keystreamBlock,
    List.getElem?_eq_getElem (by rw [length_blockBytes]; omega), blockBytes_getElem]

/-- Settles O39. -/
theorem cryptBytewise : Obligations.CryptBytewise := by
  intro k dir addr fcnt data
  refine ⟨length_cryptBytes k dir addr fcnt data, fun j x hx => ?_⟩
  have hj : j < data.length := (List.getElem?_eq_some_iff.1 hx).1
  rw [cryptBytes, xorBytes, List.getElem?_zipWith, hx, getElem?_keystream k dir addr fcnt hj]

/-- Crypt undoes itself, for both applications XOR the data with the keystream of its length (R155). -/
theorem cryptBytes_cryptBytes (k : Block) (dir : Dir) (addr fcnt : Word) (data : List Byte) :
    cryptBytes k dir addr fcnt (cryptBytes k dir addr fcnt data) = data := by
  rw [cryptBytes, length_cryptBytes]
  exact xorBytes_xorBytes data _ (length_keystream k dir addr fcnt data.length).ge

/-- Settles O40. -/
theorem cryptIsAnInvolution : Obligations.CryptIsAnInvolution := cryptBytes_cryptBytes

end Sys2Proof.Machine
end

section
/-! CRYPT applied twice with equal operands (R155, R180). -/

namespace Sys2Proof.Machine

/-- No failing check of MIC, VERIFY and CRYPT gives code 0, so a command that ends with it has run its body (R250, R259). -/
theorem withPrimitive_completes {ksel : KSel} {off len : Byte} {s t : State} {body : KeySlot → List Byte → Result}
    (h : withPrimitive ksel off len s body = .next t) (hok : t.errcode = 0) :
    ∃ k data, ksel = .slot k ∧ s.en = true ∧ outOfRange off len = false ∧ s.keyLoaded k = true ∧
      readBytes s.buf off.toNat len.toNat = some data ∧ body k data = .next t := by
  rcases withPrimitive_next h with ⟨-, rfl⟩ | ⟨-, -, rfl⟩ | ⟨k, rfl, hen, ⟨-, rfl⟩ | ⟨-, -, rfl⟩ | ⟨hr, hk, data, hd, hb⟩⟩
  · exact absurd hok (by decide : CmdCode.state.num ≠ 0)
  · exact absurd hok (by decide : CmdCode.opcode.num ≠ 0)
  · exact absurd hok (by decide : CmdCode.range.num ≠ 0)
  · exact absurd hok (by decide : CmdCode.key.num ≠ 0)
  · exact ⟨k, data, rfl, hen, hr, hk, hd, hb⟩

/-- Writing back what a range held undoes a write of that range. -/
theorem writeBytes_restore {m : Buf} {k n : Nat} {d v : List Byte} (hm : Memory.wf m = true)
    (hd : readBytes m k n = some d) (hv : v.length = d.length) (hk : k + n ≤ Config.bufSize) :
    writeBytes (writeBytes m k v) k d = m := by
  have hlen := readBytes_length hd
  refine eq_of_readByte (wf_writeBytes (by omega) (wf_writeBytes (by omega) hm)) hm fun j => ?_
  by_cases hj : k ≤ j ∧ j < k + d.length
  · obtain ⟨i, rfl⟩ := Nat.exists_eq_add_of_le hj.1
    rw [readByte_writeBytes_inside (by omega), readBytes_getElem hd i (by omega)]
  · rw [readByte_writeBytes_outside (by omega), readByte_writeBytes_outside (by omega)]

/-- CRYPT where every check passes and its region is written (R180). -/
theorem execCrypt_pass {k : KeySlot} {dir : Dir} {off len : Byte} {s : State} {data : List Byte} (hen : s.en = true)
    (hr : outOfRange off len = false) (hk : s.keyLoaded k = true)
    (hd : readBytes s.buf off.toNat len.toNat = some data) :
    execCrypt (.slot k) dir off len s =
      .next ((s.memWrite off.toNat (cryptBytes (s.key k) dir s.opDevaddr s.opFcnt data)).finish .ok) :=
  withPrimitive_pass hen hr hk hd _

/-- Settles O19: the second CRYPT reads what the first one wrote, with the same key and operands, so it writes back the
bytes the first one read. -/
theorem cryptTwiceRestoresTheBuffer : Obligations.CryptTwiceRestoresTheBuffer := by
  intro s t ksel dir off len hwf h hok
  obtain ⟨k, data, rfl, hen, hr, hk, hd, hb⟩ := withPrimitive_completes h hok
  have hundo := cryptBytes_cryptBytes (s.key k) dir s.opDevaddr s.opFcnt data
  have hlen := length_cryptBytes (s.key k) dir s.opDevaddr s.opFcnt data
  generalize cryptBytes (s.key k) dir s.opDevaddr s.opFcnt data = v at hb hundo hlen
  have hread : readBytes (writeBytes s.buf off.toNat v) off.toNat len.toNat = some v := by
    rw [← readBytes_length hd, ← hlen]
    exact readBytes_writeBytes_same s.buf off.toNat v
  have hrestore := writeBytes_restore hwf hd hlen (outOfRange_eq_false.1 hr)
  obtain rfl := endCommand_next.1 hb
  calc exec (.crypt (.slot k) dir off len) ((s.memWrite off.toNat v).finish .ok)
    _ = .next ((((s.memWrite off.toNat v).finish .ok).memWrite off.toNat
          (cryptBytes (s.key k) dir s.opDevaddr s.opFcnt v)).finish .ok) :=
        execCrypt_pass (s := (s.memWrite off.toNat v).finish .ok) hen hr hk hread
    _ = .next { (s.memWrite off.toNat v).finish .ok with buf := s.buf } := by
        simp only [hundo, State.memWrite, State.finish, hrestore]

end Sys2Proof.Machine
end

section
/-! MIC, VERIFY and CRYPT where they complete, and where a command may store (R170, R171, R175, R176, R180, R181). -/

namespace Sys2Proof.Machine

/-! ### The commands where every check passes -/

/-- MIC where every check passes and its region is written (R170). -/
theorem execMic_pass {k : KeySlot} {dir : Dir} {off len : Byte} {s : State} {data : List Byte} (hen : s.en = true)
    (hr : outOfRange off len = false) (hk : s.keyLoaded k = true)
    (hd : readBytes s.buf off.toNat len.toNat = some data) :
    execMic (.slot k) dir off len s = .next (State.finish { s with mic := wordOfLE (s.primitiveMic k dir data) } .ok) :=
  withPrimitive_pass hen hr hk hd _

/-- VERIFY where every check passes and its region is written (R175). -/
theorem execVerify_pass {k : KeySlot} {dir : Dir} {off len : Byte} {s : State} {data : List Byte} (hen : s.en = true)
    (hr : outOfRange off len = false) (hk : s.keyLoaded k = true)
    (hd : readBytes s.buf off.toNat len.toNat = some data) :
    execVerify (.slot k) dir off len s =
      .next ((State.setResult { s with mic := wordOfLE (s.primitiveMic k dir data) }
        (decide (s.primitiveMic k dir data = le32 s.micIn)) 0).finish .ok) :=
  withPrimitive_pass hen hr hk hd _

/-- Settles O14. -/
theorem micWritesTheMic : Obligations.MicWritesTheMic :=
  fun _ _ _ _ _ _ hen hr hk hd => execMic_pass hen (outOfRange_eq_false.2 hr) hk hd

/-- Settles O15. -/
theorem verifyComparesTheMic : Obligations.VerifyComparesTheMic :=
  fun _ _ _ _ _ _ hen hr hk hd => execVerify_pass hen (outOfRange_eq_false.2 hr) hk hd

/-- Settles O16. -/
theorem cryptTransformsTheRegion : Obligations.CryptTransformsTheRegion :=
  fun _ _ _ _ _ _ hen hr hk hd => execCrypt_pass hen (outOfRange_eq_false.2 hr) hk hd

/-! ### The MIC of a primitive command -/

/-- The MIC depends on the state through the key bytes, OP_DEVADDR and OP_FCNT alone (R150, R171). -/
theorem State.primitiveMic_congr {s₁ s₂ : State} {k₁ k₂ : KeySlot} (hkey : (s₁.keyRegs k₁).bytes = (s₂.keyRegs k₂).bytes)
    (haddr : s₁.opDevaddr = s₂.opDevaddr) (hfcnt : s₁.opFcnt = s₂.opFcnt) (dir : Dir) (data : List Byte) :
    s₁.primitiveMic k₁ dir data = s₂.primitiveMic k₂ dir data := by
  simp only [State.primitiveMic, State.key, hkey, haddr, hfcnt]

/-- Where MIC ends with code 0, its checks have passed and MIC holds the MIC of its region (R170). -/
theorem execMic_completes {ksel : KSel} {dir : Dir} {off len : Byte} {s t : State}
    (h : execMic ksel dir off len s = .next t) (hok : t.errcode = 0) :
    ∃ k data, ksel = .slot k ∧ s.en = true ∧ outOfRange off len = false ∧ s.keyLoaded k = true ∧
      readBytes s.buf off.toNat len.toNat = some data ∧ t.mic = wordOfLE (s.primitiveMic k dir data) := by
  obtain ⟨k, data, hs, hen, hr, hk, hd, hb⟩ := withPrimitive_completes h hok
  exact ⟨k, data, hs, hen, hr, hk, hd, congrArg State.mic (endCommand_next.1 hb)⟩

/-- Settles O17: both commands have read the same bytes, and their MICs depend on nothing else that may differ. -/
theorem micIsDeterministic : Obligations.MicIsDeterministic := by
  intro s₁ s₂ t₁ t₂ k₁ k₂ dir off₁ off₂ len hkey haddr hfcnt hread h₁ hok₁ h₂ hok₂
  obtain ⟨_, data, ⟨rfl⟩, -, -, -, hd₁, hmic₁⟩ := execMic_completes h₁ hok₁
  obtain ⟨_, data', ⟨rfl⟩, -, -, -, hd₂, hmic₂⟩ := execMic_completes h₂ hok₂
  obtain rfl : data = data' := Option.some.inj (hd₁.symm.trans (hread.trans hd₂))
  rw [hmic₁, hmic₂, State.primitiveMic_congr hkey haddr hfcnt]

/-- Settles O18: VERIFY has MIC's checks, and comparing four bytes with LE32(MIC_IN) is comparing the words (R20). -/
theorem verifyAgreesWithMic : Obligations.VerifyAgreesWithMic := by
  intro s t ksel dir off len h hok
  obtain ⟨k, data, rfl, hen, hr, hk, hd, hmic⟩ := execMic_completes h hok
  have hcompare : s.primitiveMic k dir data = le32 s.micIn ↔ wordOfLE (s.primitiveMic k dir data) = s.micIn :=
    wordOfLE_inj (length_mic4 ..) s.micIn
  refine ⟨_, execVerify_pass hen hr hk hd, rfl, hmic.symm, ?_⟩
  rw [hmic, eq_comm (a := s.micIn), ← hcompare]
  exact decide_eq_true_iff

/-! ### Where a command may store -/

/-- A byte CRYPT changes lies in its region. -/
theorem execCrypt_changed {ksel : KSel} {dir : Dir} {off len : Byte} {s t : State} {a : Nat}
    (h : execCrypt ksel dir off len s = .next t) (ha : readByte t.buf a ≠ readByte s.buf a) :
    off.toNat ≤ a ∧ a < off.toNat + len.toNat := by
  by_contra hout
  exact ha (readByte_execCrypt h (by omega))

/-- FLEN holds the length of BUILD's frame: at most 33 bytes, so nothing of it is lost in FLEN's 8 bits (R206). -/
theorem toNat_buildFlen {s : State} {mt : MType} {p : List Byte} (hp : p.length ≤ 20) :
    (BitVec.ofNat 8 ((s.buildMessage mt p).length + Config.micBytes)).toNat = (s.buildFrame mt p).length ∧
      (s.buildFrame mt p).length ≤ 33 := by
  rw [BitVec.toNat_ofNat, length_buildMessage, length_buildFrame]
  by_cases h0 : p.length = 0
  · simp [h0, Config.micBytes]
  · simp only [h0, if_false, Config.micBytes]
    omega

/-- A byte BUILD changes lies in the frame it reports in FLEN, of at most 33 bytes (R206). -/
theorem execBuild_changed {off len : Byte} {mt : MType} {s t : State} {a : Nat}
    (h : execBuild off len mt s = .next t) (ha : readByte t.buf a ≠ readByte s.buf a) :
    a < t.flen.toNat ∧ t.flen.toNat ≤ 33 := by
  rcases execBuild_next h with ⟨c, -, rfl⟩ | ⟨p, hc, hp, rfl⟩
  · exact absurd rfl ha
  · obtain ⟨-, -, -, hlen, -, -⟩ := buildChecks_none.1 hc
    obtain ⟨hflen, hle⟩ := toNat_buildFlen (s := s) (mt := mt) ((readBytes_length hp).trans_le hlen)
    have hin : a < (s.buildFrame mt p).length := by
      by_contra hout
      exact ha (readByte_writeBytes_outside (.inr (by omega)))
    exact ⟨hin.trans_eq hflen.symm, hflen.trans_le hle⟩

/-- A byte PARSE changes lies in the payload it reports in RX_LAYOUT (R230). -/
theorem parseRest_changed {len : Byte} {fctrl : Byte} {fcnt : BitVec 16} {s t : State} {a : Nat}
    (h : parseRest len.toNat fctrl fcnt s = .next t) (ha : readByte t.buf a ≠ readByte s.buf a) :
    (t.rxLayout.extractLsb' 16 8).toNat ≤ a ∧
      a < (t.rxLayout.extractLsb' 16 8).toNat + (t.rxLayout.extractLsb' 24 8).toNat := by
  have hin : afterFopts fctrl + 1 ≤ a ∧ a < len.toNat := by
    by_contra hout
    exact ha (readByte_parseRest h (by omega))
  rcases parseRest_next h with ⟨-, rfl⟩ | ⟨-, rfl⟩ | ⟨hn, fport, data, -, -, rfl⟩
  · exact absurd rfl ha
  · exact absurd rfl ha
  · obtain ⟨hplen, hpoff, -⟩ := rxLayoutWord_fields (plen := len.toNat - (afterFopts fctrl + 1))
      (poff := afterFopts fctrl + 1) (by omega) (by omega) true fport
    simp only [State.finish_rxLayout, State.memWrite_rxLayout, hplen, hpoff]
    omega

/-- PARSE's checks and its record of the header store nothing, so what it changes lies in the payload (R230). -/
theorem execParse_changed {len : Byte} {s t : State} {a : Nat} (h : execParse len s = .next t)
    (ha : readByte t.buf a ≠ readByte s.buf a) :
    (t.rxLayout.extractLsb' 16 8).toNat ≤ a ∧
      a < (t.rxLayout.extractLsb' 16 8).toNat + (t.rxLayout.extractLsb' 24 8).toNat := by
  rcases execParse_next h with ⟨c, -, -, rfl⟩ | ⟨-, mhdr, addr, fctrl, fcnt, -, -, -, -, hr⟩
  · exact absurd rfl ha
  · exact parseRest_changed hr ha

/-- Settles O32: MIC, VERIFY, VALIDATE and ADMIT store nothing, and each of the others changes bytes of its own range alone. -/
theorem onlyCryptStoresAnywhere : Obligations.OnlyCryptStoresAnywhere := by
  intro i s t a h ha
  obtain ⟨-, -, -, -, hsame⟩ := frameOfNonStoringCommands s t
  cases i with
  | mic ksel dir off len => exact absurd (hsame _ (.inl ⟨_, _, _, _, rfl⟩) h a) ha
  | verify ksel dir off len => exact absurd (hsame _ (.inr (.inl ⟨_, _, _, _, rfl⟩)) h a) ha
  | crypt ksel dir off len => exact .inl ⟨ksel, dir, off, len, rfl, execCrypt_changed h ha⟩
  | build off len mt => exact .inr (.inl ⟨off, len, mt, rfl, execBuild_changed h ha⟩)
  | validate len => exact absurd (hsame _ (.inr (.inr (.inl ⟨_, rfl⟩))) h a) ha
  | parse len => exact .inr (.inr ⟨len, rfl, execParse_changed h ha⟩)
  | admitFrame len => exact absurd (hsame _ (.inr (.inr (.inr ⟨_, rfl⟩))) h a) ha

end Sys2Proof.Machine
end

section
/-! BUILD: the state it leaves where it completes, the layout of its frame, and CRYPT over the payload it wrote
(R205, R206, R233). -/

namespace Sys2Proof.Machine

/-! ### Reading what was written from BUF[0] on -/

theorem readByte_writeBytes_zero {m : Buf} {v : List Byte} {j : Nat} (h : j < v.length) :
    readByte (writeBytes m 0 v) j = some v[j] := by
  simpa using readByte_writeBytes_inside (m := m) (k := 0) h

theorem readBytes_writeBytes_zero {m : Buf} {v : List Byte} {i n : Nat} (h : i + n ≤ v.length) :
    readBytes (writeBytes m 0 v) i n = some ((v.drop i).take n) := by
  simpa using readBytes_writeBytes_inside m 0 v i n h

/-! ### The state BUILD makes -/

/-- The state BUILD makes from the payload `p` before it ends (R205). -/
def State.built (s : State) (mt : MType) (p : List Byte) : State :=
  { s with
    buf := writeBytes s.buf 0 (s.buildFrame mt p)
    flen := BitVec.ofNat 8 ((s.buildMessage mt p).length + Config.micBytes)
    mic := wordOfLE (s.buildMic mt p)
    ackPending := false
    awaitAck := s.awaitAck || confirmed mt }

/-- BUILD where every check passes and the payload region is written (R205). -/
theorem execBuild_pass {off len : Byte} {mt : MType} {s : State} {p : List Byte}
    (hc : firstError (buildChecks off len mt s) = none) (hp : readBytes s.buf off.toNat len.toNat = some p) :
    execBuild off len mt s = .next ((s.built mt p).finish .ok) := by
  rw [execBuild, runChecked_pass hc, withBytes_some hp]
  rfl

/-- Code 0 is the code of success alone (R250). -/
theorem CmdCode.num_eq_zero {c : CmdCode} : c.num = 0 ↔ c = .ok := by
  cases c <;> decide

/-- Where BUILD ends with code 0, its checks have passed and it has made the frame (R205, R250). -/
theorem execBuild_completes {off len : Byte} {mt : MType} {s t : State} (h : execBuild off len mt s = .next t)
    (hok : t.errcode = 0) :
    ∃ p, firstError (buildChecks off len mt s) = none ∧ readBytes s.buf off.toNat len.toNat = some p ∧
      t = (s.built mt p).finish .ok := by
  rcases execBuild_next h with ⟨c, hc, rfl⟩ | ⟨p, hc, hp, rfl⟩
  · exact absurd (CmdCode.num_eq_zero.1 hok) hc
  · exact ⟨p, hc, hp, rfl⟩

theorem buildAccepts_iff {mt : MType} :
    buildAccepts mt = true ↔ mt = .unconfirmedDataUp ∨ mt = .confirmedDataUp := by
  cases mt <;> decide

/-- The port and the encrypted payload stand in the frame exactly where the payload is not empty (R205). -/
theorem State.buildBody_eq (s : State) (p : List Byte) :
    s.buildBody p = if 0 < p.length then s.fport :: cryptBytes (s.key .appSKey) .uplink s.devaddr s.fcntUp p else [] := by
  rw [State.buildBody]
  by_cases h : p.length = 0
  · rw [if_pos h, if_neg (by omega)]
  · rw [if_neg h, if_pos (by omega)]

/-- Settles O20: of the two types BUILD accepts only MTYPE 4 is confirmed. -/
theorem buildWritesTheFrame : Obligations.BuildWritesTheFrame := by
  rintro s off len mt p hen hmt hr hlen h0 h1 hp m t hm rfl
  have haccepts := buildAccepts_iff.2 hmt
  obtain rfl : s.buildMessage mt p = m := by
    rw [hm, State.buildMessage, State.buildBody_eq, readBytes_length hp]
    rfl
  rw [← confirmed_of_buildAccepts haccepts]
  exact execBuild_pass (buildChecks_none.2 ⟨hen, haccepts, outOfRange_eq_false.2 hr, hlen, h0, h1⟩) hp

/-! ### The layout of the frame (R206) -/

/-- The encrypted payload of a built frame stands at offset 9. -/
theorem readBytes_built_payload (s : State) (mt : MType) {p : List Byte} (hp : 0 < p.length) :
    readBytes (s.built mt p).buf 9 p.length =
      some (cryptBytes (s.key .appSKey) .uplink s.devaddr s.fcntUp p) := by
  have hlen : 9 + p.length ≤ (s.buildFrame mt p).length := by rw [length_buildFrame]; split <;> omega
  refine (readBytes_writeBytes_zero hlen).trans (congrArg some ?_)
  rw [State.buildFrame, State.buildMessage, State.buildBody_eq, if_pos hp]
  exact List.take_left' (length_cryptBytes ..)

/-- The MIC of a built frame is its last four bytes. -/
theorem readBytes_built_mic (s : State) (mt : MType) (p : List Byte) :
    readBytes (s.built mt p).buf (s.buildMessage mt p).length 4 = some (le32 (s.built mt p).mic) := by
  have hmic : (s.buildMic mt p).length = 4 := length_mic4 ..
  have hlen : (s.buildMessage mt p).length + 4 ≤ (s.buildFrame mt p).length := by
    rw [State.buildFrame, List.length_append, hmic]
  refine (readBytes_writeBytes_zero hlen).trans (congrArg some ?_)
  rw [State.buildFrame, List.drop_left, ← hmic, List.take_length]
  exact (le32_wordOfLE hmic).symm

/-- Settles O21: the header fields stand at fixed offsets of the frame, whatever follows them. -/
theorem buildOutputLayout : Obligations.BuildOutputLayout := by
  intro s t off len mt h hok
  obtain ⟨p, hc, hp, rfl⟩ := execBuild_completes h hok
  obtain ⟨-, -, -, hlen, -, -⟩ := buildChecks_none.1 hc
  have hpl := readBytes_length hp
  rw [← hpl] at hlen ⊢
  obtain ⟨hflen, -⟩ := toNat_buildFlen (s := s) (mt := mt) hlen
  have hframe := length_buildFrame s mt p
  have hmsg : (s.buildFrame mt p).length = (s.buildMessage mt p).length + 4 := by
    rw [State.buildFrame, List.length_append, State.buildMic, length_mic4]
  have h12 : 12 ≤ (s.buildFrame mt p).length := by rw [hframe]; split <;> omega
  refine ⟨readByte_writeBytes_zero (by omega), readBytes_writeBytes_zero (by omega),
    readByte_writeBytes_zero (by omega), readBytes_writeBytes_zero (by omega), fun hpos => ⟨?_, p, ?_, ?_⟩, ?_, ?_⟩
  · refine (readByte_writeBytes_zero (by omega)).trans (congrArg some ?_)
    simp only [State.buildFrame, State.buildMessage, State.buildBody_eq, if_pos hpos]
    rfl
  · rw [hpl, hp]
  · exact readBytes_built_payload s mt hpos
  · exact hflen.trans hframe
  · have hstart : (s.built mt p).flen.toNat - 4 = (s.buildMessage mt p).length :=
      Nat.sub_eq_of_eq_add (hflen.trans hmsg)
    exact hstart ▸ readBytes_built_mic s mt p

/-- Settles O22: CRYPT reads the ciphertext BUILD wrote with the key, direction, address and counter that made it, and Crypt
undoes itself (R155). -/
theorem buildThenCryptRecoversPayload : Obligations.BuildThenCryptRecoversPayload := by
  intro s t off len mt p h hok hp hpos
  obtain ⟨p', hc, hp', rfl⟩ := execBuild_completes h hok
  obtain rfl : p = p' := Option.some.inj (hp.symm.trans hp')
  obtain ⟨hen, -, -, hlen, -, h1⟩ := buildChecks_none.1 hc
  have hpl := readBytes_length hp
  have hr : outOfRange 9 len = false :=
    outOfRange_eq_false.2 (le_trans (Nat.add_le_add_left hlen _) (by decide))
  have hread : readBytes (s.built mt p).buf (9 : Byte).toNat len.toNat = _ :=
    hpl ▸ readBytes_built_payload s mt (hpl ▸ hpos)
  refine ⟨_, execCrypt_pass (k := .appSKey)
    (s := { (s.built mt p).finish .ok with opDevaddr := s.devaddr, opFcnt := s.fcntUp }) hen hr h1 hread, rfl, ?_⟩
  have hundo := cryptBytes_cryptBytes (s.key .appSKey) .uplink s.devaddr s.fcntUp p
  exact hundo.symm ▸ hpl ▸ readBytes_writeBytes_same (s.built mt p).buf 9 p

end Sys2Proof.Machine
end

section
/-! VALIDATE and ADMIT: where each of their checks decides (R215, R216, R222, R223). -/

namespace Sys2Proof.Machine

/-! ### The fields VALIDATE looks at -/

/-- The message type is a frame's first byte without its low five bits, and VALIDATE accepts 3 and 5 (R126, R215). -/
theorem downlinkData_mhdrType (mhdr : Byte) :
    downlinkData (mhdrType mhdr) = true ↔ mhdr.toNat / 32 = 3 ∨ mhdr.toNat / 32 = 5 := by
  have numbers : ∀ b : BitVec 3, downlinkData (.ofBits b) = true ↔ b.toNat = 3 ∨ b.toNat = 5 := by decide
  have htype : (mhdr.extractLsb' 5 3).toNat = mhdr.toNat / 32 := by
    rw [BitVec.extractLsb'_toNat, Nat.shiftRight_eq_div_pow]
    omega
  rw [mhdrType, numbers, htype]

/-- The MIC VALIDATE computes, by the frame's counter as a number (R215). -/
theorem State.validateMic_eq (s : State) {fcnt : List Byte} (h : fcnt.length = 2) (addr : Word) (data : List Byte) :
    s.validateMic addr (fcntOf fcnt) data =
      mic4 (s.key .nwkSKey) .downlink addr (BitVec.ofNat 32 (fromLE fcnt)) data := by
  rw [State.validateMic, fcntOf_setWidth h]

/-! ### VALIDATE, check by check -/

section Validate

variable {s : State} {len : Byte} (hen : s.en = true) (hk : s.keyLoaded .nwkSKey = true)

include hen hk

theorem validateChecks_pass : firstError (validateChecks s) = none := by
  simp [validateChecks, hen, hk]

theorem execValidate_short (hlen : len.toNat < 12) : execValidate len s = discard 1 s := by
  rw [execValidate, runChecked_pass (validateChecks_pass hen hk), if_pos hlen]

variable {mhdr : Byte} (hlen : 12 ≤ len.toNat) (hm : readByte s.buf 0 = some mhdr)

include hlen hm

theorem execValidate_wrongType (ht : ¬ (mhdr.toNat / 32 = 3 ∨ mhdr.toNat / 32 = 5)) :
    execValidate len s = discard 2 s := by
  rw [← downlinkData_mhdrType, Bool.not_eq_true] at ht
  rw [execValidate, runChecked_pass (validateChecks_pass hen hk), if_neg (Nat.not_lt.2 hlen), withByte_some hm, ht]
  rfl

variable {addr : List Byte} (ht : mhdr.toNat / 32 = 3 ∨ mhdr.toNat / 32 = 5) (ha : readBytes s.buf 1 4 = some addr)

include ht ha

theorem execValidate_wrongAddress (hd : fromLE addr ≠ s.devaddr.toNat) : execValidate len s = discard 3 s := by
  rw [execValidate, runChecked_pass (validateChecks_pass hen hk), if_neg (Nat.not_lt.2 hlen), withByte_some hm,
    (downlinkData_mhdrType mhdr).2 ht, if_neg (by decide), withBytes_some ha,
    if_pos (mt (wordOfLE_eq_iff (readBytes_length ha) _).1 hd)]

/-- Check 4, of a frame that has passed the others (R215). -/
theorem execValidate_mic (hd : fromLE addr = s.devaddr.toNat) {fcnt data claimed : List Byte}
    (hf : readBytes s.buf 6 2 = some fcnt) (hda : readBytes s.buf 0 (len.toNat - 4) = some data)
    (hc : readBytes s.buf (len.toNat - 4) 4 = some claimed) :
    execValidate len s = validateFinish len.toNat
      (mic4 (s.key .nwkSKey) .downlink s.devaddr (BitVec.ofNat 32 (fromLE fcnt)) data) claimed s := by
  have haddr := (wordOfLE_eq_iff (readBytes_length ha) s.devaddr).2 hd
  rw [execValidate, runChecked_pass (validateChecks_pass hen hk), if_neg (Nat.not_lt.2 hlen), withByte_some hm,
    (downlinkData_mhdrType mhdr).2 ht, if_neg (by decide), withBytes_some ha, if_neg (not_not.2 haddr),
    withBytes_some hf, withBytes_some hda, withBytes_some hc, s.validateMic_eq (readBytes_length hf), haddr]

end Validate

/-- Settles O23. -/
theorem validateDiscardsInOrder : Obligations.ValidateDiscardsInOrder := by
  intro s len hen hk
  refine ⟨execValidate_short hen hk, fun hlen mhdr hm => ⟨fun h3 h5 => ?_, fun ht addr ha => ⟨fun hd => ?_, ?_⟩⟩⟩
  · exact execValidate_wrongType hen hk hlen hm (not_or.2 ⟨h3, h5⟩)
  · exact execValidate_wrongAddress hen hk hlen hm ht ha hd
  · rintro hd fcnt data claimed hf hda hc t rfl hne
    exact (execValidate_mic hen hk hlen hm ht ha hd hf hda hc).trans (if_neg hne)

/-! ### The frames VALIDATE accepts -/

/-- A discard leaves OK at 0, so it is no acceptance (R216). -/
theorem discard_not_accepted {r : BitVec 3} {s t : State} (h : discard r s = .next t) : ¬ t.resultOk = true := by
  rw [discard_next.1 h]
  exact Bool.false_ne_true

/-- An answer of check 4 with OK 1 means that the two MICs are equal (R215). -/
theorem validateFinish_accepted {n : Nat} {m claimed : List Byte} {s t : State}
    (h : validateFinish n m claimed s = .next t) (hok : t.resultOk = true) : m = claimed := by
  rcases validateFinish_next h with ⟨heq, -⟩ | ⟨-, rfl⟩
  · exact heq
  · exact absurd hok Bool.false_ne_true

/-- Settles O24: an answer with OK 1 comes from none of the discards, so every check has passed. -/
theorem validateAcceptsExactlyGoodFrames : Obligations.ValidateAcceptsExactlyGoodFrames := by
  intro s len hen hk
  refine ⟨?_, fun t h hok => ?_⟩
  · rintro mhdr addr fcnt data claimed hlen hm ht ha hd hf hda hc rfl
    exact (execValidate_mic hen hk hlen hm ht ha hd hf hda hc).trans (if_pos rfl)
  · rw [exec, execValidate, runChecked_pass (validateChecks_pass hen hk)] at h
    split at h
    · exact absurd hok (discard_not_accepted h)
    · next hlen =>
      obtain ⟨mhdr, hm, h⟩ := withByte_next.1 h
      split at h
      · exact absurd hok (discard_not_accepted h)
      · next ht =>
        obtain ⟨addr, ha, h⟩ := withBytes_next.1 h
        split at h
        · exact absurd hok (discard_not_accepted h)
        · next hd =>
          obtain ⟨fcnt, hf, h⟩ := withBytes_next.1 h
          obtain ⟨data, hda, h⟩ := withBytes_next.1 h
          obtain ⟨claimed, hc, h⟩ := withBytes_next.1 h
          have hmic := validateFinish_accepted h hok
          rw [not_not.1 hd, s.validateMic_eq (readBytes_length hf)] at hmic
          exact ⟨mhdr, addr, fcnt, data, Nat.not_lt.1 hlen, hm, (downlinkData_mhdrType mhdr).1 (by simpa using ht), ha,
            (wordOfLE_eq_iff (readBytes_length ha) _).1 (not_not.1 hd), hf, hda, hmic ▸ hc⟩

/-! ### ADMIT -/

/-- The admission comparison, by numbers (R222, R223). -/
theorem State.admits_fcntOf (s : State) {fcnt : List Byte} (h : fcnt.length = 2) :
    s.admits (fcntOf fcnt) = decide (s.fcntDown.toNat % 2 ^ 16 ≤ fromLE fcnt) := by
  have hlt : fromLE fcnt < 2 ^ 16 := (fromLE_lt fcnt).trans_eq (by rw [h]; rfl)
  rw [State.admits, fcntOf, BitVec.toNat_setWidth, BitVec.toNat_ofNat, Nat.mod_eq_of_lt hlt]

/-- ADMIT where its checks pass and the counter field is written (R222). -/
theorem execAdmit_pass {s : State} {len : Byte} {fcnt : List Byte} (hen : s.en = true) (hlen : 8 ≤ len.toNat)
    (hf : readBytes s.buf 6 2 = some fcnt) : execAdmit len s =
      .next ((s.setResult (decide (s.fcntDown.toNat % 2 ^ 16 ≤ fromLE fcnt)) 0).finish .ok) := by
  have hc : firstError (admitChecks len s) = none := by simp [admitChecks, hen, hlen]
  rw [execAdmit, runChecked_pass hc, withBytes_some hf, s.admits_fcntOf (readBytes_length hf)]
  rfl

/-- Settles O25: below 2^16 FCNT_DOWN is its own low half. -/
theorem admitComparesCounters : Obligations.AdmitComparesCounters := by
  intro s len fcnt hen hlen hf
  have hpass := execAdmit_pass hen hlen hf
  refine ⟨hpass, fun hlow t h => ?_⟩
  cases hpass.symm.trans h
  have hmod : s.fcntDown.toNat % 2 ^ 16 = s.fcntDown.toNat := Nat.mod_eq_of_lt hlow
  rw [hmod]
  exact decide_eq_true_iff

end Sys2Proof.Machine
end

section
/-! PARSE past its checks: the header it records, and each of its ways to end (R56, R58, R230, R231). -/

namespace Sys2Proof.Machine

open Sys2Proof.Claims

/-! ### The words PARSE writes -/

/-- RX_HDR's fields do not overlap: FCnt above FCtrl above MHDR (R56). -/
theorem rxHdrWord_eq (mhdr fctrl : Byte) (fcnt : BitVec 16) :
    rxHdrWord mhdr fctrl fcnt = BitVec.ofNat 32 (mhdr.toNat + 2 ^ 8 * fctrl.toNat + 2 ^ 16 * fcnt.toNat) := by
  have hm := mhdr.isLt
  have hc := fctrl.isLt
  have hf := fcnt.isLt
  have hmhdr := toNat_place (w := 32) mhdr 0 (by decide)
  have hfctrl := toNat_place_or fctrl (k := 8) (by decide) (y := place 32 mhdr 0) (by omega)
  have hfcnt := toNat_place_or fcnt (k := 16) (by decide) (y := place 32 fctrl 8 ||| place 32 mhdr 0) (by omega)
  apply BitVec.eq_of_toNat_eq
  rw [rxHdrWord, BitVec.or_assoc, BitVec.toNat_ofNat]
  omega

theorem toNat_flag (b : Bool) : (flag b).toNat = b.toNat := by
  cases b <;> rfl

/-- RX_LAYOUT's fields do not overlap: PAYLOAD_LEN above PAYLOAD_OFF above FPORT_PRESENT above FPORT (R58). -/
theorem rxLayoutWord_eq {plen poff : Nat} (hl : plen < 256) (ho : poff < 256) (present : Bool) (fport : Byte) :
    rxLayoutWord plen poff present fport =
      BitVec.ofNat 32 (fport.toNat + 2 ^ 8 * present.toNat + 2 ^ 16 * poff + 2 ^ 24 * plen) := by
  have hf := fport.isLt
  have hp := Bool.toNat_le present
  have hfport := toNat_place (w := 32) fport 0 (by decide)
  have hflag := toNat_place_or (flag present) (k := 8) (by decide) (y := place 32 fport 0) (by omega)
  rw [toNat_flag] at hflag
  have hoff := toNat_place_or (BitVec.ofNat 8 poff) (k := 16) (by decide)
    (y := place 32 (flag present) 8 ||| place 32 fport 0) (by omega)
  rw [BitVec.toNat_ofNat, Nat.mod_eq_of_lt ho] at hoff
  have hlen := toNat_place_or (BitVec.ofNat 8 plen) (k := 24) (by decide)
    (y := place 32 (BitVec.ofNat 8 poff) 16 ||| (place 32 (flag present) 8 ||| place 32 fport 0)) (by omega)
  rw [BitVec.toNat_ofNat, Nat.mod_eq_of_lt hl] at hlen
  apply BitVec.eq_of_toNat_eq
  rw [rxLayoutWord, BitVec.or_assoc, BitVec.or_assoc, BitVec.toNat_ofNat]
  omega

/-- The 16-bit FCnt field as a number (R84). -/
theorem toNat_fcntOf {fcnt : List Byte} (h : fcnt.length = 2) : (fcntOf fcnt).toNat = fromLE fcnt := by
  have hlt := fromLE_lt fcnt
  rw [h] at hlt
  exact Nat.mod_eq_of_lt hlt

/-- The header as PARSE records it. -/
theorem State.recordHeader_eq (s : State) (mhdr fctrl : Byte) (addr : List Byte) {fcnt : List Byte}
    (h : fcnt.length = 2) :
    s.recordHeader mhdr (wordOfLE addr) fctrl (fcntOf fcnt) = headerParsed s mhdr addr fctrl fcnt := by
  rw [State.recordHeader, rxHdrWord_eq, toNat_fcntOf h]
  rfl

/-! ### PARSE, past its checks -/

/-- The FPort byte of a frame stands after the fixed header and FOpts (R125, R127). -/
theorem afterFopts_eq (fctrl : Byte) : afterFopts fctrl = 8 + fctrl.toNat % 16 := by
  rw [afterFopts, foptsLen_eq]

/-- PARSE where its checks pass and the header is written (R230). -/
theorem execParse_pass {s : State} {len mhdr fctrl : Byte} {addr fcnt : List Byte} (hen : s.en = true)
    (hk : s.keyLoaded .appSKey = true) (hlen : 8 ≤ len.toNat) (hm : readByte s.buf 0 = some mhdr)
    (ha : readBytes s.buf 1 4 = some addr) (hc : readByte s.buf 5 = some fctrl) (hf : readBytes s.buf 6 2 = some fcnt) :
    execParse len s = parseRest len.toNat fctrl (fcntOf fcnt) (headerParsed s mhdr addr fctrl fcnt) := by
  have hchecks : firstError (parseChecks len s) = none := by simp [parseChecks, hen, hk, hlen]
  rw [execParse, runChecked_pass hchecks, withByte_some hm, withBytes_some ha, withByte_some hc, withBytes_some hf,
    s.recordHeader_eq mhdr fctrl addr (readBytes_length hf)]

/-- PARSE of a frame that ends inside FOpts, or at an FPort with no payload (R231). -/
theorem parseRest_size {n : Nat} {fctrl : Byte} (fcnt : BitVec 16) (s : State)
    (h : n < afterFopts fctrl ∨ n = afterFopts fctrl + 1) : parseRest n fctrl fcnt s = endCommand .size s := by
  rcases h with h | rfl
  · rw [parseRest, if_pos h]
  · rw [parseRest, if_neg (by omega), if_neg (by omega), if_pos rfl]

/-- PARSE of a frame that FOpts end (R230). -/
theorem parseRest_noPayload (fctrl : Byte) (fcnt : BitVec 16) (s : State) :
    parseRest (afterFopts fctrl) fctrl fcnt s =
      endCommand .ok { s with rxLayout := rxLayoutWord 0 (afterFopts fctrl) false 0 } := by
  rw [parseRest, if_neg (lt_irrefl _), if_pos rfl]

/-- PARSE of a frame with a payload (R230). -/
theorem parseRest_payload {n : Nat} {fctrl fport : Byte} {data : List Byte} (fcnt : BitVec 16) {s : State}
    (h : afterFopts fctrl + 1 < n) (hp : readByte s.buf (afterFopts fctrl) = some fport)
    (hd : readBytes s.buf (afterFopts fctrl + 1) (n - (afterFopts fctrl + 1)) = some data) :
    parseRest n fctrl fcnt s = endCommand .ok
      (State.memWrite { s with rxLayout := rxLayoutWord (n - (afterFopts fctrl + 1)) (afterFopts fctrl + 1) true fport }
        (afterFopts fctrl + 1) (cryptBytes (s.key .appSKey) .downlink s.devaddr (fcnt.setWidth 32) data)) := by
  rw [parseRest, if_neg (by omega), if_neg (by omega), if_neg (by omega), withByte_some hp, withBytes_some hd]

/-- Settles O26: BUF is unchanged when PARSE reads the FPort and the payload, for the header goes to registers. -/
theorem parseReportsAndDecrypts : Obligations.ParseReportsAndDecrypts := by
  rintro s len mhdr fctrl addr fcnt fol hen hk hlen hm ha hc hf rfl
  have hn := len.isLt
  have hpass := execParse_pass hen hk hlen hm ha hc hf
  have hafter := afterFopts_eq fctrl
  have hpayload : afterFopts fctrl + 1 = 9 + fctrl.toNat % 16 := by omega
  refine ⟨fun heq => ?_, fun hlt fport data hp hd => ?_⟩
  · have hlayout : rxLayoutWord 0 (afterFopts fctrl) false 0 = BitVec.ofNat 32 (2 ^ 16 * afterFopts fctrl) := by
      rw [rxLayoutWord_eq (by decide) (by omega)]
      simp
    rw [exec, hpass, heq, ← hafter, parseRest_noPayload, hlayout]
    rfl
  · rw [← hafter] at hp
    rw [← hpayload] at hd hlt ⊢
    rw [exec, hpass, parseRest_payload (s := headerParsed s mhdr addr fctrl fcnt) (fcntOf fcnt) hlt hp hd,
      rxLayoutWord_eq (by omega) (by omega), fcntOf_setWidth (readBytes_length hf)]
    rfl

/-- Settles O27: both SIZE ends come after the header is recorded, and write nothing more. -/
theorem parsePartialEffects : Obligations.ParsePartialEffects := by
  intro s len mhdr fctrl addr fcnt hen hk hlen hm ha hc hf hsize
  have hafter := afterFopts_eq fctrl
  exact (execParse_pass hen hk hlen hm ha hc hf).trans (parseRest_size _ _ (by omega))

end Sys2Proof.Machine
end

section
/-! How a command ends: its checks in the order of R259, then its completion, SIZE of PARSE, or a read of an unwritten
byte (R250 to R259, R262, R263). -/

namespace Sys2Proof.Machine

open Sys2Proof.Claims

/-! ### The engine's step on a PENDING word -/

theorem engineStep_command {s : State} {w : Word} {i : Instr} (hp : s.pending = some w) (hi : decode w = .ok i) :
    engineStep s = exec i s := by
  simp only [engineStep, hp, runWord, hi]

/-- A word that is no command ends in STATE while the block is stopped, else in OPCODE (R252, R254). -/
theorem engineStep_reject {s : State} {w : Word} {e : DecodeError} (hp : s.pending = some w)
    (he : decode w = .error e) : engineStep s = endCommand (if s.en then .opcode else .state) s := by
  simp only [engineStep, hp, runWord, he]
  exact rejectWord_next.2 rfl

/-- Settles O6: the engine finds the word PENDING, whichever moves are left. -/
theorem stepRunsDecodedCommand : Obligations.StepRunsDecodedCommand := by
  refine fun s w i hp hi => ⟨fun hm => ?_, fun rest hm => ?_⟩
  · rw [step_nil hm, engineStep_command hp hi]
  · rw [step_cons hm]
    exact engineStep_command (s := { s with moves := rest }) hp hi

/-! ### The checks of each command, in the order of R259 -/

/-- The checks of MIC, VERIFY and CRYPT; the key is checked only where KSEL names a slot. -/
def primitiveChecks (off len : Byte) (s : State) : KSel → List (Bool × CmdCode)
  | .slot k => [(!s.en, .state), (outOfRange off len, .range), (!s.keyLoaded k, .key)]
  | .noSlot => [(!s.en, .state), (true, .opcode)]

/-- The checks of a command, as its arm of `exec` makes them. -/
def commandChecks (s : State) : Instr → List (Bool × CmdCode)
  | .mic ksel _ off len => primitiveChecks off len s ksel
  | .verify ksel _ off len => primitiveChecks off len s ksel
  | .crypt ksel _ off len => primitiveChecks off len s ksel
  | .build off len mt => buildChecks off len mt s
  | .validate _ => validateChecks s
  | .parse len => parseChecks len s
  | .admitFrame len => admitChecks len s

/-- The first failing check of a list that tests each code once. -/
theorem firstError_map (applies : CmdCode → Bool) (codes : List CmdCode) :
    firstError (codes.map fun c => (applies c, c)) = codes.find? applies := by
  induction codes with
  | nil => rfl
  | cons c codes ih =>
    rw [List.map_cons, firstError_cons, ih, List.find?_cons]
    cases applies c <;> rfl

theorem buildAccepts_eq_buildable (mt : MType) : buildAccepts mt = mt.buildable := by
  cases mt <;> rfl

/-- A command checks the errors that can apply to it, and checks them in the order of R259; the others never fail. -/
theorem firstError_commandChecks (s : State) (i : Instr) :
    firstError (commandChecks s i) = checkOrder.find? (errorApplies s i) := by
  rw [← firstError_map]
  simp only [checkOrder, List.map_cons, List.map_nil, errorApplies]
  cases i with
  | mic ksel _ off len | verify ksel _ off len | crypt ksel _ off len =>
    cases ksel <;> simp only [slotsNeeded, List.any_cons, List.any_nil, Bool.or_false] <;> rfl
  | build off len mt =>
    simp only [commandChecks, buildChecks, buildAccepts_eq_buildable, Bool.not_and, slotsNeeded, List.any_cons,
      List.any_nil, Bool.or_false]
    rfl
  | validate len | parse len => simp only [slotsNeeded, List.any_cons, List.any_nil, Bool.or_false]; rfl
  | admitFrame len => rfl

/-! ### A failing check -/

theorem withPrimitive_slot (k : KeySlot) (off len : Byte) (s : State) (body : KeySlot → List Byte → Result) :
    withPrimitive (.slot k) off len s body =
      runChecked (primitiveChecks off len s (.slot k)) s (withBytes s off.toNat len.toNat (body k)) := by
  cases hen : s.en <;> simp [withPrimitive, primitiveChecks, runChecked, hen]

theorem withPrimitive_noSlot (off len : Byte) (s : State) (body : KeySlot → List Byte → Result) :
    withPrimitive .noSlot off len s body = endCommand (if s.en then .opcode else .state) s := by
  cases hen : s.en <;> simp [withPrimitive, runChecked, hen]

theorem firstError_noSlot (off len : Byte) (s : State) :
    firstError (primitiveChecks off len s .noSlot) = some (if s.en then .opcode else .state) := by
  cases hen : s.en <;> simp [primitiveChecks, hen]

theorem withPrimitive_fail {ksel : KSel} {off len : Byte} {s : State} {c : CmdCode}
    (h : firstError (primitiveChecks off len s ksel) = some c) (body : KeySlot → List Byte → Result) :
    withPrimitive ksel off len s body = endCommand c s := by
  cases ksel with
  | slot k => rw [withPrimitive_slot, runChecked_fail h]
  | noSlot =>
    cases (firstError_noSlot off len s).symm.trans h
    exact withPrimitive_noSlot off len s body

/-- A command error: the command ends with the first failing check's code and no other effect (R259, R263). -/
theorem exec_fail {s : State} {i : Instr} {c : CmdCode} (h : firstError (commandChecks s i) = some c) :
    exec i s = endCommand c s := by
  cases i with
  | mic | verify | crypt => exact withPrimitive_fail h _
  | build | validate | parse | admitFrame => exact runChecked_fail h s _

/-! ### Past the checks -/

/-- An answer of a command: it ends with a code and effects that `P` allows, or it has read a byte not written in `m`. -/
def EndsOrUninit (P : CmdCode → State → Prop) (m : Buf) (r : Result) : Prop :=
  (∃ c u, P c u ∧ r = endCommand c u) ∨
    ∃ off n, r = .fault (.uninitCommand off n) ∧ ∃ j, off ≤ j ∧ j < off + n ∧ readByte m j = none

section

variable {P : CmdCode → State → Prop}

theorem EndsOrUninit.of_endCommand {c : CmdCode} {u : State} {m : Buf} (h : P c u) :
    EndsOrUninit P m (endCommand c u) :=
  .inl ⟨c, u, h, rfl⟩

theorem EndsOrUninit.of_withBytes {s : State} {off n : Nat} {body : List Byte → Result}
    (h : ∀ d, EndsOrUninit P s.buf (body d)) : EndsOrUninit P s.buf (withBytes s off n body) := by
  cases hd : readBytes s.buf off n with
  | some d => rw [withBytes_some hd]; exact h d
  | none =>
    obtain ⟨j, hj, hnone⟩ := (readBytes_eq_none s.buf off n).1 hd
    exact .inr ⟨off, n, by rw [withBytes, hd], off + j, by omega, by omega, hnone⟩

theorem EndsOrUninit.of_withByte {s : State} {off : Nat} {body : Byte → Result}
    (h : ∀ b, EndsOrUninit P s.buf (body b)) : EndsOrUninit P s.buf (withByte s off body) := by
  cases hb : readByte s.buf off with
  | some b => rw [withByte_some hb]; exact h b
  | none => exact .inr ⟨off, 1, by rw [withByte, hb], off, by omega, by omega, hb⟩

end

/-- How a command whose checks pass ends: with code 0, or, a PARSE, in SIZE with the header recorded (R230, R231). -/
def Completes (s : State) (i : Instr) (c : CmdCode) (u : State) : Prop :=
  c = .ok ∨ (c = .size ∧ (∃ len, i = .parse len) ∧
    u = { s with awaitAck := u.awaitAck, rxHdr := u.rxHdr, rxDevaddr := u.rxDevaddr })

/-- Past the checks MIC, VERIFY and CRYPT read their region and end with code 0. -/
theorem withPrimitive_completes_or_uninit {s : State} {i : Instr} {ksel : KSel} {off len : Byte}
    (h : firstError (primitiveChecks off len s ksel) = none) (effect : KeySlot → List Byte → State) :
    EndsOrUninit (Completes s i) s.buf
      (withPrimitive ksel off len s fun k data => endCommand .ok (effect k data)) := by
  cases ksel with
  | slot k =>
    rw [withPrimitive_slot, runChecked_pass h]
    exact .of_withBytes fun _ => .of_endCommand (.inl rfl)
  | noSlot => cases (firstError_noSlot off len s).symm.trans h

theorem parseRest_completes_or_uninit (s : State) (len : Byte) (n : Nat) (mhdr fctrl : Byte) (addr : Word)
    (fcnt : BitVec 16) :
    EndsOrUninit (Completes s (.parse len)) s.buf (parseRest n fctrl fcnt (s.recordHeader mhdr addr fctrl fcnt)) := by
  have size : EndsOrUninit (Completes s (.parse len)) s.buf (endCommand .size (s.recordHeader mhdr addr fctrl fcnt)) :=
    .of_endCommand (.inr ⟨rfl, ⟨len, rfl⟩, rfl⟩)
  unfold parseRest
  split
  · exact size
  · split
    · exact .of_endCommand (.inl rfl)
    · split
      · exact size
      · exact .of_withByte (s := s.recordHeader mhdr addr fctrl fcnt) fun _ =>
          .of_withBytes fun _ => .of_endCommand (.inl rfl)

theorem validate_completes_or_uninit {s : State} {len : Byte} (h : firstError (validateChecks s) = none) :
    EndsOrUninit (Completes s (.validate len)) s.buf (execValidate len s) := by
  have discarded (r : BitVec 3) (u : State) : EndsOrUninit (Completes s (.validate len)) s.buf (discard r u) :=
    .of_endCommand (.inl rfl)
  rw [execValidate, runChecked_pass h]
  split
  · exact discarded 1 s
  · refine .of_withByte fun mhdr => ?_
    split
    · exact discarded 2 s
    · refine .of_withBytes fun addr => ?_
      split
      · exact discarded 3 s
      · refine .of_withBytes fun fcnt => .of_withBytes fun data => .of_withBytes fun claimed => ?_
        unfold validateFinish
        split
        · exact .of_endCommand (.inl rfl)
        · exact discarded 4 _

/-- What a command whose checks pass can do. -/
theorem exec_completes_or_uninit {s : State} {i : Instr} (h : firstError (commandChecks s i) = none) :
    EndsOrUninit (Completes s i) s.buf (exec i s) := by
  cases i with
  | mic | verify | crypt => exact withPrimitive_completes_or_uninit h _
  | build off len mt =>
    rw [exec, execBuild, runChecked_pass (checks := buildChecks off len mt s) h]
    exact .of_withBytes fun _ => .of_endCommand (.inl rfl)
  | validate len => exact validate_completes_or_uninit h
  | parse len =>
    rw [exec, execParse, runChecked_pass (checks := parseChecks len s) h]
    exact .of_withByte fun mhdr => .of_withBytes fun addr => .of_withByte fun fctrl => .of_withBytes fun fcnt =>
      parseRest_completes_or_uninit s len len.toNat mhdr fctrl (wordOfLE addr) (fcntOf fcnt)
  | admitFrame len =>
    rw [exec, execAdmit, runChecked_pass (checks := admitChecks len s) h]
    exact .of_withBytes fun _ => .of_endCommand (.inl rfl)

/-- Everything a command can do where it answers: the first failing check's error with no other effect, or a completion. -/
theorem exec_next {i : Instr} {s t : State} (h : exec i s = .next t) :
    (∃ c, firstError (commandChecks s i) = some c ∧ t = s.finish c) ∨
      (firstError (commandChecks s i) = none ∧ ∃ c u, Completes s i c u ∧ t = u.finish c) := by
  cases hc : firstError (commandChecks s i) with
  | some c => exact .inl ⟨c, rfl, endCommand_next.1 ((exec_fail hc).symm.trans h)⟩
  | none =>
    rcases exec_completes_or_uninit hc with ⟨c, u, hP, he⟩ | ⟨off, n, hf, -⟩
    · exact .inr ⟨rfl, c, u, hP, endCommand_next.1 (he.symm.trans h)⟩
    · cases hf.symm.trans h

/-- Settles O9: a failing check ends the command, and past the checks only the reads can fault. -/
theorem commandsFaultOnlyOnUnwrittenBytes : Obligations.CommandsFaultOnlyOnUnwrittenBytes := by
  intro i s
  cases hc : firstError (commandChecks s i) with
  | some c => exact .inl ⟨_, exec_fail hc⟩
  | none =>
    rcases exec_completes_or_uninit hc with ⟨c, u, -, he⟩ | hfault
    · exact .inl ⟨_, he⟩
    · exact .inr hfault

/-- An answer of the engine's step while a command is PENDING is the end of that command. -/
theorem engineStep_finishes {s t : State} (hb : s.busy = true) (h : engineStep s = .next t) :
    ∃ c u, t = State.finish u c := by
  rcases engineStep_next h with ⟨hp, -⟩ | ⟨w, -, ⟨i, -, he⟩ | ⟨e, -, rfl⟩⟩
  · rw [s.not_busy_iff.2 hp] at hb; cases hb
  · rcases exec_next he with ⟨c, -, rfl⟩ | ⟨-, c, u, -, rfl⟩
    · exact ⟨c, s, rfl⟩
    · exact ⟨c, u, rfl⟩
  · exact ⟨_, s, rfl⟩

/-- Settles O8: whatever the command did, `State.finish` is its last update. -/
theorem engineStepEndsTheCommand : Obligations.EngineStepEndsTheCommand := by
  refine fun s t h => ⟨fun hb => ?_, fun hb => ?_⟩
  · rw [engineStep, s.not_busy_iff.1 hb] at h
    cases h; rfl
  · obtain ⟨c, u, rfl⟩ := engineStep_finishes hb h
    exact ⟨u.busy_finish c, u.finish_done c, c.num_le⟩

/-! ### Command errors -/

/-- Settles O12: the checks of a command report the first error that applies, and past them no code but 0 and 6 is left. -/
theorem firstApplicableErrorIsReported : Obligations.FirstApplicableErrorIsReported := by
  intro s i
  rw [← firstError_commandChecks]
  refine ⟨fun c hc => exec_fail hc, fun hc t h => ?_⟩
  rcases exec_next h with ⟨c, hc', -⟩ | ⟨-, c, u, rfl | ⟨rfl, hparse, -⟩, rfl⟩
  · cases hc.symm.trans hc'
  · exact .inl rfl
  · exact .inr ⟨rfl, hparse⟩

/-- Settles O13: a failing check leaves the state as it was, and past the checks only PARSE ends in an error. -/
theorem errorsArePrecise : Obligations.ErrorsArePrecise := by
  intro i s t h hne
  rcases exec_next h with ⟨c, -, rfl⟩ | ⟨-, c, u, rfl | ⟨rfl, hparse, hu⟩, rfl⟩
  · exact .inl rfl
  · exact absurd rfl hne
  · exact .inr ⟨hparse, congrArg (State.finish · .size) hu⟩

/-- Settles O10: STATE is the first check of every command, and of a word that is none. -/
theorem stoppedBlockEndsInState : Obligations.StoppedBlockEndsInState := by
  intro s w hp hen
  cases hw : decode w with
  | ok i =>
    have hstate : firstError (commandChecks s i) = some .state := by
      rw [firstError_commandChecks]
      exact List.find?_cons_of_pos (by simp [errorApplies, hen])
    rw [engineStep_command hp hw, exec_fail hstate]
    rfl
  | error e =>
    rw [engineStep_reject hp hw, hen]
    rfl

/-! ### The words of R254 -/

theorem CmdCode.num_eq_two {c : CmdCode} : c.num = 2 ↔ c = .opcode := by
  cases c <;> decide

/-- No well-formed command's word is one R254 lists. -/
theorem not_illegalWord_encode {i : Instr} (hi : i.wellFormed = true) : ¬ illegalWord (encode i) := by
  have hr : reservedClear (encode i) = true := by cases i <;> exact reservedClear_pack ..
  have h7 : (encode i).getLsbD 7 = false := getElem_of_reservedClear hr (by decide) (.inl rfl)
  simp only [illegalWord, h7, (reservedClear_iff.1 hr).2]
  cases i with
  | mic ksel _ _ _ | verify ksel _ _ _ | crypt ksel _ _ _ =>
    simpa [encode, Instr.op] using (namesSlot_iff ksel).1 hi
  | build off len mt =>
    have hmt := (buildable_iff mt).1 hi
    simpa [encode, Instr.op, imp_iff_not_or, or_comm] using hmt
  | validate | parse | admitFrame => simp [encode, Instr.op]

/-- A word R254 does not list is a well-formed command's: OP selects a row, and the row's fields are as R118 asks. -/
theorem decode_of_not_illegalWord {w : Word} (h : ¬ illegalWord w) :
    ∃ i, decode w = .ok i ∧ i.wellFormed = true := by
  unfold illegalWord at h
  push Not at h
  obtain ⟨hop0, hop8, h7, h27, hprimitive, hbuild, hframe⟩ := h
  have hr : reservedClear w = true := by
    refine reservedClear_iff.2 ⟨BitVec.eq_of_getLsbD_eq fun j hj => ?_, h27⟩
    interval_cases j
    simpa using h7
  have hrow : ∀ op : BitVec 4, op ≠ 0 → op.toNat < 8 →
      op = 1 ∨ op = 2 ∨ op = 3 ∨ op = 4 ∨ op = 5 ∨ op = 6 ∨ op = 7 := by decide
  have hslot : kselField w ≠ 3 → (KSel.ofBits (kselField w)).namesSlot = true := by simp [namesSlot_iff]
  simp only [decode_eq_ok_iff]
  rcases hrow (opField w) hop0 hop8 with ho | ho | ho | ho | ho | ho | ho
  · obtain ⟨hm, hk⟩ := hprimitive (.inl ho)
    exact ⟨primitiveOf .mic w, pack_primitive hr ho hm, hslot hk⟩
  · obtain ⟨hm, hk⟩ := hprimitive (.inr (.inl ho))
    exact ⟨primitiveOf .verify w, pack_primitive hr ho hm, hslot hk⟩
  · obtain ⟨hm, hk⟩ := hprimitive (.inr (.inr ho))
    exact ⟨primitiveOf .crypt w, pack_primitive hr ho hm, hslot hk⟩
  · obtain ⟨hk, hd, hm⟩ := hbuild ho
    refine ⟨.build (offField w) (lenField w) (.ofBits (mtypeField w)), pack_build hr ho hk hd, ?_⟩
    exact (buildable_iff _).2 (by rw [MType.num_ofBits]; tauto)
  · obtain ⟨hk, hd, hoff, hm⟩ := hframe (.inl ho)
    exact ⟨.validate (lenField w), pack_frame hr ho hk hd hoff hm, rfl⟩
  · obtain ⟨hk, hd, hoff, hm⟩ := hframe (.inr (.inl ho))
    exact ⟨.parse (lenField w), pack_frame hr ho hk hd hoff hm, rfl⟩
  · obtain ⟨hk, hd, hoff, hm⟩ := hframe (.inr (.inr ho))
    exact ⟨.admitFrame (lenField w), pack_frame hr ho hk hd hoff hm, rfl⟩

/-- A running block ends a command in OPCODE exactly where it is not well formed (R254). -/
theorem firstError_opcode {s : State} (hen : s.en = true) (i : Instr) :
    firstError (commandChecks s i) = some .opcode ↔ i.wellFormed = false := by
  rw [firstError_commandChecks]
  refine ⟨fun h => ?_, fun h => ?_⟩
  · simpa [errorApplies] using List.find?_some h
  · simp [checkOrder, errorApplies, hen, h]

/-- Settles O11: an illegal word is no command, or a command that is not well formed; no other error's code is 2. -/
theorem illegalWordsEndInOpcode : Obligations.IllegalWordsEndInOpcode := by
  refine fun s w hp hen => ⟨fun hill => ?_, fun hlegal t ht => ?_⟩
  · cases hw : decode w with
    | ok i =>
      have hwf : i.wellFormed = false := by
        obtain rfl := decode_eq_ok_iff.1 hw
        exact Bool.eq_false_iff.2 fun hi => not_illegalWord_encode hi hill
      rw [engineStep_command hp hw, exec_fail ((firstError_opcode hen i).2 hwf)]
      rfl
    | error e =>
      rw [engineStep_reject hp hw, hen]
      rfl
  · obtain ⟨i, hw, hwf⟩ := decode_of_not_illegalWord hlegal
    rw [engineStep_command hp hw] at ht
    rcases exec_next ht with ⟨c, hc, rfl⟩ | ⟨-, c, u, rfl | ⟨rfl, -, -⟩, rfl⟩
    · intro h2
      obtain rfl : c = .opcode := CmdCode.num_eq_two.1 h2
      rw [(firstError_opcode hen i).1 hc] at hwf
      cases hwf
    · exact (by decide : CmdCode.num .ok ≠ 2)
    · exact (by decide : CmdCode.num .size ≠ 2)

end Sys2Proof.Machine
end

section
/-! How a command ends without the engine: the abort (R257); and that every command ends once the schedule is done
(R311, log 2). -/

namespace Sys2Proof.Machine

/-- A step that writes CTRL (R34, R257). -/
theorem step_writeCtrl {s : State} {v : Word} {rest : List Move}
    (hm : s.moves = .write (Config.blockBase + 0x004) 4 v :: rest) :
    step s = written (State.writeCtrl { s with moves := rest } v) := by
  rw [step_write hm (by decide) (by decide), writeAt_ctrl]

/-- Settles O42: a CTRL write aborts exactly where the block is busy and running and bit 0 is 0. -/
theorem stoppingAbortsTheCommand : Obligations.StoppingAbortsTheCommand := by
  intro s v rest hm
  rw [step_writeCtrl hm]
  refine ⟨fun hb hen hv => ?_, fun h => ?_⟩
  · have habort : (s.busy && s.en && !v.getLsbD 0) = true := by rw [hb, hen, hv]; rfl
    rw [State.writeCtrl_abort { s with moves := rest } v habort, hv]
    rfl
  · have hplain : (s.busy && s.en && !v.getLsbD 0) = false := by
      rcases h with hb | hen | hv
      · simp [hb]
      · simp [hen]
      · simp [hv]
    rw [State.writeCtrl_plain { s with moves := rest } v hplain]
    rfl

/-! ### The schedule -/

theorem engineStep_moves {s t : State} (h : engineStep s = .next t) : t.moves = s.moves := by
  rcases engineStep_next h with ⟨-, rfl⟩ | ⟨w, -, ⟨i, -, he⟩ | ⟨e, -, rfl⟩⟩
  · rfl
  · rw [exec_frame he]
  · rfl

/-- No move schedules another. -/
theorem runMove_moves {m : Move} {s t : State} (h : runMove m s = .next t) : t.moves = s.moves := by
  cases m with
  | engine => exact engineStep_moves h
  | read =>
    obtain ⟨r, d, rfl⟩ := busRead_next h
    rfl
  | write addr size v =>
    rcases busWrite_next h with rfl | ⟨off, u, -, -, rfl, ⟨-, rfl⟩ | ⟨-, -, rfl⟩ | ⟨-, -, rfl⟩⟩
    · rfl
    · rfl
    · exact (congrArg State.moves (writeReg_moves s s.moves (regAt off) v) :)
    · rfl
  | reset =>
    cases h
    rfl

/-- The engine's step leaves nothing PENDING (R251). -/
theorem engineStep_pending {s t : State} (h : engineStep s = .next t) : t.pending = none := by
  obtain ⟨hidle, hbusy⟩ := engineStepEndsTheCommand s t h
  cases hb : s.busy
  · rw [hidle hb]
    exact s.not_busy_iff.1 hb
  · exact t.not_busy_iff.1 (hbusy hb).1

/-- A run of `n + 1` steps that answers has answered at its first step. -/
theorem run_succ_next {n : Nat} {s t : State} (h : Host.Core.run Sys2Proof.core (n + 1) s = .next t) :
    ∃ u, step s = .next u ∧ Host.Core.run Sys2Proof.core n u = .next t := by
  simp only [Host.Core.run] at h
  split at h
  · next u hs => exact ⟨u, hs, h⟩
  · cases h
  · cases h

/-- Settles O57, by induction on the moves left: each is taken by one step, and the step after the last is the engine's. -/
theorem everyCommandEnds : Obligations.EveryCommandEnds := by
  intro s t h
  induction hm : s.moves generalizing s with
  | nil =>
    rw [hm] at h
    obtain ⟨u, hs, hrun⟩ := run_succ_next h
    cases hrun
    rw [step_nil hm] at hs
    exact ⟨engineStep_pending hs, (engineStep_moves hs).trans hm⟩
  | cons m rest ih =>
    rw [hm] at h
    obtain ⟨u, hs, hrun⟩ := run_succ_next h
    rw [step_cons hm] at hs
    have hu : u.moves = rest := runMove_moves hs
    exact ih u (by rwa [hu]) hu

end Sys2Proof.Machine
end
